-- ==== Sys2Proof/Word.lean ====
section
/-! DEFINITION. The vectors of the engine. Every value of the source is a fixed-width bit vector (R7, R10).
`BitVec n` is used with index 0 of the spec as the MOST significant bit (R12, R13, R21): the spec's `v[i]` is
`v.getMsbD i`, the spec's concatenation of `x` and `y` is `x ++ y`, and the port word `num(v)` is `v.toNat`. -/

namespace Sys2Proof

/-- The 8-bit plaintext or ciphertext block (R7, R22). -/
abbrev Block := BitVec 8

/-- The 10-bit master key (R7, R22). -/
abbrev Key := BitVec 10

/-- An 8-bit round key, SubKey1 or SubKey2 (R7). -/
abbrev SubKey := BitVec 8

/-- A 4-bit half of a block (R7, R17). -/
abbrev Half := BitVec 4

/-- A 5-bit half of a key (R7). -/
abbrev KeyHalf := BitVec 5

/-- The 21-bit command word `CW[20:0]` (R60). -/
abbrev CommandWord := BitVec 21

end Sys2Proof
end

