-- ==== Sys2Proof/Config.lean ====
section
/-! DEFINITION. What is fixed when the hardware is built, and the free values. R8 and R28: nine constant tables, which a
model may take as configuration. The modified S1 table is OPEN in the spec (R173, D12) and the registers at power-up are
unspecified (R31, D15): both are constants with no body, so no proof can see them. -/

namespace Sys2Proof

/-- A permutation table of `m` entries, written as the source writes it: 1-based source indices, output index 0
first (R10, R100). -/
abbrev PermTable (m : Nat) := Vector Nat m

/-- An S-box table of 4 rows and 4 columns with entries in [0,3], read `table[row][col]` (R170, R176). -/
abbrev SBoxTable := Vector (Vector (Fin 4) 4) 4

/-- The nine tables of R8, before any check: a configuration someone proposes. -/
structure RawTables where
  p10   : PermTable 10
  p8    : PermTable 8
  p4    : PermTable 4
  ip    : PermTable 8
  invip : PermTable 8
  ep    : PermTable 8
  s0    : SBoxTable
  s1    : SBoxTable
  s1Mod : SBoxTable
  deriving DecidableEq, Repr

/-- A choice of a modified S1 table: a cell in which it differs from the default S1, by how much it differs there
(`delta` + 1, so never by 0), and what it holds in the other cells. Every choice gives a table that differs from the
default one, and every table that does is given by some choice (R173). -/
structure S1ModChoice where
  row   : Fin 4
  col   : Fin 4
  delta : Fin 3
  rest  : SBoxTable
  deriving DecidableEq, Repr, Inhabited

/-- Which modified S1 table this hardware was built with: OPEN (R173, D12, U2). No body; log entry 2. -/
opaque Config.s1ModChoice : S1ModChoice

/-- What `rsp_valid` holds after the n-th power-up, before any reset (R31, U1). No body; log entry 4. -/
opaque Config.powerUpValid : Nat → Bool

/-- What `rsp_data` holds after the n-th power-up, before any reset (R31, U1). No body; log entry 4. -/
opaque Config.powerUpData : Nat → Block

/-- What `rsp_swap` holds after the n-th power-up, before any reset (R31, U1). No body; log entry 4. -/
opaque Config.powerUpSwap : Nat → Block

end Sys2Proof
end

