-- ==== Sys2Proof/Machine/Bits.lean ====
section
/-! DEFINITION. Building and slicing vectors by index, index 0 first (R10, R11). -/

namespace Sys2Proof.Machine

/-- The vector whose bit at index `i` is `f i` (R10). -/
def ofBits : {n : Nat} → (Fin n → Bool) → BitVec n
  | 0, _ => 0#0
  | _ + 1, f => BitVec.cons (f 0) (ofBits fun i => f i.succ)

/-- The `len`-bit slice of `x` that begins at index `a`: the spec's `x[a..a+len-1]` (R11). -/
def slice {n : Nat} (x : BitVec n) (a len : Nat) : BitVec len :=
  ofBits fun i => x.getMsbD (a + i)

end Sys2Proof.Machine
end

