-- ==== Sys2Proof/Machine/Permutation.lean ====
section
/-! DEFINITION. PermutationEngine: spec/41_permutation.md section 1. -/

namespace Sys2Proof.Machine

/-- R100: bit `i` of the result is the bit of `x` at the 1-based position `T[i]`. -/
def permute {n m : Nat} (x : BitVec n) (T : PermTable m) : BitVec m :=
  ofBits fun i => x.getMsbD (T[i] - 1)

end Sys2Proof.Machine
end

