-- ==== Sys2Proof/Syntax.lean ====
section
/-! DEFINITION. The command set of the engine: one constructor per row of spec/opcode_table.json (R3, R62). -/

namespace Sys2Proof

/-- A decoded command. The operands are the fields of R63: `m` is `useModifiedS1`, `key` the 10-bit key, `block` the
8-bit input block. Every value of every operand is legal (R63, R64). -/
inductive Instr where
  /-- NOP: no command is presented; the other twenty bits of the word are ignored (R62, R208). -/
  | nop
  /-- ENC (written ENC.M when `m` is true): encrypt `block` under `key` (R206). -/
  | enc (m : Bool) (key : Key) (block : Block)
  /-- DEC (written DEC.M when `m` is true): decrypt `block` under `key` (R207). -/
  | dec (m : Bool) (key : Key) (block : Block)
  deriving DecidableEq, Repr

end Sys2Proof
end

