-- ==== Sys2Proof/WellFormed.lean ====
section
/-! DEFINITION. Well-formedness. Commands need no check: every operand of every command has exactly its width and every
value of it is legal (R44, R63, R64), so every term of `Instr` is well-formed. What can be ill-formed is a
CONFIGURATION: R101, R108 and R173 say which tables are refused. A refused configuration gives no `Tables`, and
the cipher takes nothing but `Tables`, so it is never evaluated on one (R101, U6). -/

namespace Sys2Proof

/-- Every entry is a valid 1-based index into a domain of `n` positions (R101). -/
def PermTable.inRange {m : Nat} (n : Nat) (T : PermTable m) : Bool :=
  decide (∀ i : Fin m, 1 ≤ T[i] ∧ T[i] ≤ n)

/-- No entry occurs twice (R108: P8 has distinct entries). -/
def PermTable.distinct {m : Nat} (T : PermTable m) : Bool :=
  decide (∀ i j : Fin m, T[i] = T[j] → i = j)

/-- A square table in which every position occurs exactly once (R108: P10, P4, IP, INVIP). -/
def PermTable.bijective {n : Nat} (T : PermTable n) : Bool :=
  PermTable.inRange n T && T.distinct

/-- `A(B(p)) = p` for every position p, both counted from 1 (R106, R108). -/
def PermTable.undoes {n : Nat} (A B : PermTable n) : Bool :=
  decide (∀ p : Fin n, A[B[p] - 1]? = some (p.val + 1))

/-- The two tables hold different values in some cell (R173). -/
def SBoxTable.differs (A B : SBoxTable) : Bool :=
  decide (∃ r c : Fin 4, A[r][c] ≠ B[r][c])

/-- The check of a configuration: R101, R108 and R173. The range of S-box entries (R170, R176) holds by their type. -/
def RawTables.wf (R : RawTables) : Bool :=
  R.p10.bijective &&
  (PermTable.inRange 10 R.p8 && R.p8.distinct) &&
  R.p4.bijective &&
  R.ip.bijective &&
  R.invip.bijective &&
  PermTable.inRange 4 R.ep &&
  (PermTable.undoes R.ip R.invip && PermTable.undoes R.invip R.ip) &&
  SBoxTable.differs R.s1Mod R.s1

/-- A configuration that passed the check. -/
structure Tables extends RawTables where
  wf : toRawTables.wf = true
  deriving DecidableEq, Repr

/-- Building the hardware from a proposed configuration: refused when it is malformed (R101, R108, R173, U6). -/
def Tables.ofRaw? (R : RawTables) : Option Tables :=
  if h : R.wf = true then some ⟨R, h⟩ else none

end Sys2Proof
end

