-- ==== Sys2Proof/Machine/SBox.lean ====
section
/-! DEFINITION. SBoxLookup: spec/44_sbox.md section 2. -/

namespace Sys2Proof.Machine

/-- The number of two address bits, most significant first (R174). -/
def addressOf (msb lsb : Bool) : Fin 4 :=
  ⟨2 * msb.toNat + lsb.toNat, by have := msb.toNat_le; have := lsb.toNat_le; omega⟩

/-- The row address: the outer bits of the half (R174). -/
def sboxRow (h : Half) : Fin 4 := addressOf (h.getMsbD 0) (h.getMsbD 3)

/-- The column address: the inner bits of the half (R174). -/
def sboxCol (h : Half) : Fin 4 := addressOf (h.getMsbD 1) (h.getMsbD 2)

/-- R174: one S-box; the entry as two bits, most significant first. -/
def lookup (h : Half) (S : SBoxTable) : BitVec 2 :=
  BitVec.ofNat 2 S[sboxRow h][sboxCol h]

/-- The S1 table the variant bit selects (R175). -/
def s1Table (T : Tables) (m : Bool) : SBoxTable := if m then T.s1Mod else T.s1

/-- R175: S0 on the first half of `x`, always the default table; S1 of the selected variant on the second. -/
def sbox (T : Tables) (x : BitVec 8) (m : Bool) : Half :=
  lookup (slice x 0 4) T.s0 ++ lookup (slice x 4 4) (s1Table T m)

end Sys2Proof.Machine
end

