-- ==== Sys2Proof/Machine/Feistel.lean ====
section
/-! DEFINITION. FeistelRound: spec/43_feistel.md section 1. -/

namespace Sys2Proof.Machine

/-- R150 steps 1 and 2: the expanded right half mixed with the subkey. -/
def mixed (T : Tables) (r : Half) (sk : SubKey) : BitVec 8 := permute r T.ep ^^^ sk

/-- R150: the inner function F of the round. -/
def roundF (T : Tables) (r : Half) (sk : SubKey) (m : Bool) : Half :=
  permute (sbox T (mixed T r sk) m) T.p4

/-- R151: the new left half. -/
def fk (T : Tables) (l r : Half) (sk : SubKey) (m : Bool) : Half := l ^^^ roundF T r sk m

end Sys2Proof.Machine
end

