-- ==== Sys2Proof/Machine/KeySchedule.lean ====
section
/-! DEFINITION. KeyScheduler: spec/42_key_schedule.md. -/

namespace Sys2Proof.Machine

/-- R130: circular shift toward index 0. -/
def rotl {l : Nat} (x : BitVec l) (t : Nat) : BitVec l :=
  ofBits fun i => x.getMsbD ((i + t) % l)

/-- Both 5-bit halves of a 10-bit value rotated by `t`, and recombined (R132). -/
def rotlHalves (x : BitVec 10) (t : Nat) : BitVec 10 :=
  rotl (slice x 0 5 : KeyHalf) t ++ rotl (slice x 5 5 : KeyHalf) t

/-- R132 step 1. -/
def p10Key (T : Tables) (key : Key) : BitVec 10 := permute key T.p10

/-- R132 step 2, LS-1. -/
def ls1 (T : Tables) (key : Key) : BitVec 10 := rotlHalves (p10Key T key) 1

/-- R132 step 3, LS-2: applied to `ls1`, not to the P10 output (R133, C5). -/
def ls2 (T : Tables) (key : Key) : BitVec 10 := rotlHalves (ls1 T key) 2

/-- The two subkeys of a key. -/
structure SubKeys where
  k1 : SubKey
  k2 : SubKey
  deriving DecidableEq, Repr

/-- R132 step 4. -/
def schedule (T : Tables) (key : Key) : SubKeys where
  k1 := permute (ls1 T key) T.p8
  k2 := permute (ls2 T key) T.p8

end Sys2Proof.Machine
end

