-- ==== Sys2Proof/Machine/Cipher.lean ====
section
/-! DEFINITION. CipherDriver: spec/45_cipher.md section 1. -/

namespace Sys2Proof.Machine

/-- The operand `op` of R200: 0 is encrypt, 1 is decrypt (R62, D6). -/
inductive Direction where
  | encrypt
  | decrypt
  deriving DecidableEq, Repr

/-- The two results of R200: the output block and the post-swap value. -/
structure CipherResult where
  out  : Block
  swap : Block
  deriving DecidableEq, Repr

/-- The subkeys in the order the two rounds use them, `(kA, kB)` of R200, as `k1` and `k2`. -/
def roundKeys (d : Direction) (k : SubKeys) : SubKeys :=
  match d with
  | .encrypt => k
  | .decrypt => ⟨k.k2, k.k1⟩

/-- R200. -/
def cipher (T : Tables) (d : Direction) (m : Bool) (x : Block) (key : Key) : CipherResult :=
  let k := roundKeys d (schedule T key)
  let temp := permute x T.ip
  let l0 : Half := slice temp 0 4
  let r0 : Half := slice temp 4 4
  let l1 := fk T l0 r0 k.k1 m
  let l2 := fk T r0 l1 k.k2 m
  { out := permute (l2 ++ l1 : Block) T.invip
    swap := r0 ++ l1 }

/-- R201: the library surface. -/
def encrypt (T : Tables) (p : Block) (key : Key) (m : Bool) : Block := (cipher T .encrypt m p key).out

/-- R201: the library surface. -/
def decrypt (T : Tables) (c : Block) (key : Key) (m : Bool) : Block := (cipher T .decrypt m c key).out

/-- `SW` of R202: the halves of a block exchanged. -/
def swapHalves (x : Block) : Block := (slice x 4 4 : Half) ++ (slice x 0 4 : Half)

/-- `FK_k` of R202: one round on a whole block; the right half is kept. -/
def fkBlock (T : Tables) (k : SubKey) (m : Bool) (x : Block) : Block :=
  fk T (slice x 0 4) (slice x 4 4) k m ++ (slice x 4 4 : Half)

end Sys2Proof.Machine
end

