-- ==== Sys2Proof/Machine/State.lean ====
section
/-! DEFINITION. The state of a system that holds one engine: the engine's three response registers, which are all the
state it has (R20, R23, R33), and what its host is going to do at the coming clock edges (R430, R431). The tables are
configuration and no part of the state (R33). There is no memory, program counter, mode or exception register (R26, R27,
R40, R300, R307). -/

namespace Sys2Proof.Machine

/-- One sample of all input ports at a rising edge of `clk` (R22, R33). -/
structure Sample where
  rst      : Bool
  cmdValid : Bool
  cmdOp    : Bool
  cmdMods1 : Bool
  cmdKey   : Key
  cmdData  : Block
  deriving DecidableEq, Repr

/-- What the wire of a port bit can carry at an edge (R301, U4, D22): the two binary levels, an unknown level, and no
driver at all. -/
inductive Level where
  | low
  | high
  | unknown
  | highZ
  deriving DecidableEq, Repr

/-- The levels of all input port bits at an edge; entry 0 of a vector is its index 0, the port's most significant
bit (R21, R22). -/
structure PortLevels where
  rst      : Level
  cmdValid : Level
  cmdOp    : Level
  cmdMods1 : Level
  cmdKey   : Vector Level 10
  cmdData  : Vector Level 8
  deriving DecidableEq, Repr

/-- One thing the world outside the engine does (R310, R430). All but the last are a rising edge of `clk`. -/
inductive HostAction where
  /-- An edge at which the host drives this sample: reset, command or idle (R430). -/
  | drive (x : Sample)
  /-- An edge at which the host drives this sample with the value it reads on `rsp_data` in place of `cmdData`: the
  second edge of ENCDEC (R68, and program P4 of spec/95_test_vectors.md). -/
  | feedBack (x : Sample)
  /-- An edge at which the wires carry these levels, which need not be binary (R301). -/
  | wires (x : PortLevels)
  /-- An edge at which a setup or hold time is violated, or a glitch on `clk` (U5, R431). -/
  | timingViolation
  /-- Power is lost and comes back: all state is lost (R312). No edge of `clk`. -/
  | powerCycle
  deriving DecidableEq, Repr

/-- Why the machine stops with a fault: never. The engine raises no exception and has no error state (R300), so there is
no constructor. -/
inductive Fault where
  deriving DecidableEq, Repr

/-- Why there is no step. -/
inductive Refusal where
  /-- Raised by `exec` for a command that has no meaning yet: none is left. Safe. -/
  | notModelled (mnemonic : String)
  /-- Raised by `step` when the host's sequence of samples is at its end: the run ends there (R431). Safe. -/
  | endOfRun
  /-- Raised by `step` at an edge at which some input port bit is neither 0 nor 1: the spec has the model refuse it
  (R301, D22, U4). Safe. -/
  | nonBinaryPort
  /-- Raised by `step` at an edge with a setup or hold violation, or a glitch of `clk`: the spec has the model refuse it
  (D22, U5). Safe. -/
  | timingViolation
  deriving DecidableEq, Repr

/-- `rspValid`, `rspData` and `rspSwap` are the response registers of R23. `host` is what the host does from here on,
first action first, and `powerUps` counts the power-ups so far, so that each draws fresh free values (R31); these two
are the model's own fields (log entries 3 and 4). -/
structure State where
  rspValid : Bool
  rspData  : Block
  rspSwap  : Block
  host     : List HostAction
  powerUps : Nat
  deriving DecidableEq, Repr

/-- The machine right after an edge with `rst = 1` (R30, R400), with no further sample given yet. -/
def State.reset : State where
  rspValid := false
  rspData := 0x00#8
  rspSwap := 0x00#8
  host := []
  powerUps := 0

end Sys2Proof.Machine
end

