-- ==== Sys2Proof/Machine/Flags.lean ====
section
/-! DEFINITION. The engine's only status flag, `rsp_valid` (R25): an accepted command sets it (R206, R207), an edge
without a command clears it (R208), reset clears it (R400). There is no carry, overflow, zero or error flag. -/

namespace Sys2Proof.Machine

/-- `rsp_valid <- b` (R25). -/
def State.setValid (b : Bool) (s : State) : State := { s with rspValid := b }

end Sys2Proof.Machine
end

