-- ==== Sys2Proof/Machine/Ops.lean ====
section
/-! DEFINITION. The named operations on the state. The response registers are written only here and in Flags.lean. There
is no memory operation (R40, R214) and no exception entry or return (R300, R304, R305): the engine has neither. -/

namespace Sys2Proof.Machine

/-- The write of an accepted command: all three response registers at the one edge (R45, R206, R207). -/
def State.respond (r : CipherResult) (s : State) : State :=
  State.setValid true { s with rspData := r.out, rspSwap := r.swap }

/-- The write of a reset edge (R400). -/
def State.resetRegs (s : State) : State :=
  State.setValid false { s with rspData := 0x00#8, rspSwap := 0x00#8 }

/-- The registers after a power-up: free values (R31, R312, U1; log entry 4). -/
def State.powerUp (s : State) : State :=
  { s with
    rspValid := Config.powerUpValid s.powerUps
    rspData := Config.powerUpData s.powerUps
    rspSwap := Config.powerUpSwap s.powerUps
    powerUps := s.powerUps + 1 }

/-- The host's further actions are `h`. -/
def State.setHost (h : List HostAction) (s : State) : State := { s with host := h }

end Sys2Proof.Machine
end

