-- ==== Sys2Proof/Machine/Tables.lean ====
section
/-! DEFINITION. The values of the nine tables of this hardware: spec/41_permutation.md section 2 and
spec/44_sbox.md section 1. The spec supplies the first eight itself (D11, log entry 1); the ninth is OPEN (R173, D12,
log entry 2). -/

namespace Sys2Proof.Machine

/-- R102. -/
def tblP10 : PermTable 10 := #v[3, 5, 2, 7, 4, 10, 1, 9, 8, 6]

/-- R103. -/
def tblP8 : PermTable 8 := #v[6, 3, 7, 4, 8, 5, 10, 9]

/-- R104. -/
def tblP4 : PermTable 4 := #v[2, 4, 3, 1]

/-- R105. -/
def tblIp : PermTable 8 := #v[2, 6, 3, 1, 4, 8, 5, 7]

/-- R106. -/
def tblInvip : PermTable 8 := #v[4, 1, 3, 5, 7, 2, 8, 6]

/-- R107, and C2 of spec/90_conflicts.md: every position twice. -/
def tblEp : PermTable 8 := #v[4, 1, 2, 3, 2, 3, 4, 1]

/-- R171. -/
def tblS0 : SBoxTable :=
  #v[#v[1, 0, 3, 2],
     #v[3, 2, 1, 0],
     #v[0, 2, 1, 3],
     #v[3, 1, 3, 2]]

/-- R172. -/
def tblS1 : SBoxTable :=
  #v[#v[0, 1, 2, 3],
     #v[2, 0, 1, 3],
     #v[3, 0, 1, 0],
     #v[2, 1, 0, 3]]

/-- The modified S1 table of a choice, over the default table `s1` (R173). -/
def modifiedTable (s1 : SBoxTable) (c : S1ModChoice) : SBoxTable :=
  Vector.ofFn fun r => Vector.ofFn fun k =>
    if r = c.row ∧ k = c.col then s1[r][k] + c.delta.succ else c.rest[r][k]

/-- R173: OPEN, but different from the default S1. -/
def tblS1Mod : SBoxTable := modifiedTable tblS1 Config.s1ModChoice

/-- The nine tables this hardware is built with (R8). -/
def rawHardware : RawTables where
  p10 := tblP10
  p8 := tblP8
  p4 := tblP4
  ip := tblIp
  invip := tblInvip
  ep := tblEp
  s0 := tblS0
  s1 := tblS1
  s1Mod := tblS1Mod

/-- Every choice gives an admissible modified S1 table (R173). -/
theorem modifiedTable_differs (s1 : SBoxTable) (c : S1ModChoice) :
    SBoxTable.differs (modifiedTable s1 c) s1 = true := by
  have add_succ_ne : ∀ (x : Fin 4) (d : Fin 3), x + d.succ ≠ x := by decide
  refine decide_eq_true ⟨c.row, c.col, ?_⟩
  simp [modifiedTable, add_succ_ne]

/-- This hardware's tables pass the check (R101, R108, R173). -/
theorem rawHardware_wf : rawHardware.wf = true := by
  simp only [RawTables.wf, Bool.and_eq_true]
  refine ⟨⟨⟨⟨⟨⟨⟨?_, ?_, ?_⟩, ?_⟩, ?_⟩, ?_⟩, ?_⟩, ?_, ?_⟩, modifiedTable_differs tblS1 _⟩ <;> decide

/-- The configuration of this hardware (R8, R28). -/
def hardware : Tables where
  toRawTables := rawHardware
  wf := rawHardware_wf

end Sys2Proof.Machine
end

