-- ==== Sys2Proof/Machine/Commands.lean ====
section
/-! DEFINITION. The three commands at an edge with `rst = 0`: spec/45_cipher.md section 2. None of them can fail (R300). -/

namespace Sys2Proof.Machine

/-- R208: `rsp_valid` is cleared; `rsp_data` and `rsp_swap` keep their values. -/
def execNop (s : State) : Host.Outcome State Fault Refusal :=
  .next (s.setValid false)

/-- R206. -/
def execEnc (m : Bool) (key : Key) (block : Block) (s : State) : Host.Outcome State Fault Refusal :=
  .next (s.respond (cipher hardware .encrypt m block key))

/-- R207. -/
def execDec (m : Bool) (key : Key) (block : Block) (s : State) : Host.Outcome State Fault Refusal :=
  .next (s.respond (cipher hardware .decrypt m block key))

end Sys2Proof.Machine
end

