-- ==== Sys2Proof/Machine/Dispatch.lean ====
section
/-! DEFINITION. One arm per command. -/

namespace Sys2Proof.Machine

def exec (i : Instr) (s : State) : Host.Outcome State Fault Refusal :=
  match i with
  | .nop => Sys2Proof.Machine.execNop s
  | .enc m key block => Sys2Proof.Machine.execEnc m key block s
  | .dec m key block => Sys2Proof.Machine.execDec m key block s

end Sys2Proof.Machine
end

