-- ==== Sys2Proof/Decode.lean ====
section
/-! DEFINITION. The command word: its fields (R60, R61), decoding (R62, R63), encoding (R61, R67). Decoding is total:
there is no reserved or illegal word (R64). -/

namespace Sys2Proof

/-- The command word with the five fields V, D, M, K, B of R61, most significant first (R60). -/
def packWord (v d m : Bool) (key : Key) (block : Block) : CommandWord :=
  BitVec.ofBool v ++ BitVec.ofBool d ++ BitVec.ofBool m ++ key ++ block

/-- Field V, `CW[20]`: a command is presented (R61). -/
def CommandWord.valid (w : CommandWord) : Bool := w.getLsbD 20

/-- Field D, `CW[19]`: 0 encrypt, 1 decrypt (R61). -/
def CommandWord.direction (w : CommandWord) : Bool := w.getLsbD 19

/-- Field M, `CW[18]`: the modified S1 table is used (R61). -/
def CommandWord.modified (w : CommandWord) : Bool := w.getLsbD 18

/-- Field K, `CW[17:8]`: key index 0 is `CW[17]` (R61, R63). -/
def CommandWord.key (w : CommandWord) : Key := w.extractLsb' 8 10

/-- Field B, `CW[7:0]`: block index 0 is `CW[7]` (R61, R63). -/
def CommandWord.block (w : CommandWord) : Block := w.extractLsb' 0 8

/-- R62. -/
def decode (w : CommandWord) : Instr :=
  if CommandWord.valid w = false then .nop
  else if CommandWord.direction w = false then
    .enc (CommandWord.modified w) (CommandWord.key w) (CommandWord.block w)
  else
    .dec (CommandWord.modified w) (CommandWord.key w) (CommandWord.block w)

/-- The word of a command, as R67 writes it; the ignored bits of NOP are written 0. -/
def encode : Instr → CommandWord
  | .nop => packWord false false false 0 0
  | .enc m key block => packWord true false m key block
  | .dec m key block => packWord true true m key block

/-- What the decoder reads from a word given as a number with bit 0 its least significant bit (R13). A number with a
bit set above `CW[20]` is no command word. -/
def decodeTableWord (nbits w : Nat) : Option Instr :=
  if w < 2 ^ nbits ∧ w < 2 ^ 21 then some (decode (BitVec.ofNat 21 w)) else none

end Sys2Proof
end

