-- ==== Sys2Proof/Machine/Operands.lean ====
section
/-! DEFINITION. What the ports carry at an edge: the command word of a sample (R60), a sample from the levels of the
wires (R22, R301), and the sample of a command word. The operands of a command are fields of its word and have no other
form: no immediate besides K and B, no register operand, no addressing mode (R63). -/

namespace Sys2Proof.Machine

/-- R60: the command word is the concatenation of the five command ports; `rst` is no part of it (R66). -/
def Sample.commandWord (x : Sample) : CommandWord :=
  packWord x.cmdValid x.cmdOp x.cmdMods1 x.cmdKey x.cmdData

/-- The sample with `rst = 0` whose command word is `w` (R60, R61). -/
def Sample.ofWord (w : CommandWord) : Sample where
  rst := false
  cmdValid := CommandWord.valid w
  cmdOp := CommandWord.direction w
  cmdMods1 := CommandWord.modified w
  cmdKey := CommandWord.key w
  cmdData := CommandWord.block w

/-- The sample with its block taken from `rsp_data` (R68). -/
def Sample.withData (x : Sample) (b : Block) : Sample := { x with cmdData := b }

/-- The wire is at 0 or 1 (R301). -/
def Level.isBinary : Level → Bool
  | .low => true
  | .high => true
  | .unknown => false
  | .highZ => false

/-- The bit a binary wire carries. -/
def Level.bit : Level → Bool
  | .low => false
  | .high => true
  | .unknown => false
  | .highZ => false

/-- Every input port bit is 0 or 1 (R301, D22, U4: on any input). -/
def PortLevels.isBinary (x : PortLevels) : Bool :=
  x.rst.isBinary && x.cmdValid.isBinary && x.cmdOp.isBinary && x.cmdMods1.isBinary &&
  decide (∀ i : Fin 10, (x.cmdKey[i]).isBinary = true) && decide (∀ i : Fin 8, (x.cmdData[i]).isBinary = true)

/-- The sample that binary levels stand for. -/
def PortLevels.bits (x : PortLevels) : Sample where
  rst := x.rst.bit
  cmdValid := x.cmdValid.bit
  cmdOp := x.cmdOp.bit
  cmdMods1 := x.cmdMods1.bit
  cmdKey := ofBits fun i => (x.cmdKey[i]).bit
  cmdData := ofBits fun i => (x.cmdData[i]).bit

/-- The sample the levels stand for: none when any port bit is neither 0 nor 1 (R301, D22, U4). -/
def PortLevels.sample? (x : PortLevels) : Option Sample :=
  if x.isBinary then some x.bits else none

/-- The wire a port bit is driven to. -/
def Level.ofBit (b : Bool) : Level := if b then .high else .low

/-- The wires of a sample: every port bit driven to its binary level (R430). -/
def Sample.levels (x : Sample) : PortLevels :=
  { rst := .ofBit x.rst
    cmdValid := .ofBit x.cmdValid
    cmdOp := .ofBit x.cmdOp
    cmdMods1 := .ofBit x.cmdMods1
    cmdKey := Vector.ofFn fun i => .ofBit (x.cmdKey.getMsbD i)
    cmdData := Vector.ofFn fun i => .ofBit (x.cmdData.getMsbD i) }

end Sys2Proof.Machine
end

