-- ==== Sys2Proof/Machine/Edge.lean ====
section
/-! DEFINITION. One rising edge of `clk` (R400, R411), and what each action of the host makes the engine do (R430). -/

namespace Sys2Proof.Machine

/-- A rising edge at which the sample `x` is taken. Reset comes first and discards the command word (R66, R303, R400);
otherwise the word's command runs (R411). -/
def clockEdge (x : Sample) (s : State) : Host.Outcome State Fault Refusal :=
  if x.rst then .next s.resetRegs else exec (decode x.commandWord) s

/-- What the engine does at an action of the host (R310, R430). -/
def hostAct (a : HostAction) (s : State) : Host.Outcome State Fault Refusal :=
  match a with
  | .drive x => clockEdge x s
  | .feedBack x => clockEdge (x.withData s.rspData) s
  | .wires x =>
    match x.sample? with
    | some b => clockEdge b s
    | none => .refused .nonBinaryPort
  | .timingViolation => .refused .timingViolation
  | .powerCycle => .next s.powerUp

/-- The next action of the host is taken up; when there is none, the run has ended (R431). -/
def nextAction (s : State) : Host.Outcome State Fault Refusal :=
  match s.host with
  | [] => .refused .endOfRun
  | a :: rest => hostAct a (s.setHost rest)

/-- The host presents the command word `w`, with `rst = 0`, at the very next edge. -/
def State.presentWord (w : CommandWord) (s : State) : State :=
  s.setHost (.drive (Sample.ofWord w) :: s.host)

end Sys2Proof.Machine
end

