-- ==== Sys2Proof/Machine/Step.lean ====
section
/-! DEFINITION. The step of the system: the host's next action, and what the engine does at it (R310, R411, R431). -/

namespace Sys2Proof.Machine

/-- One action of the host: a rising edge of `clk`, or a loss of power. -/
def step : State → Host.Outcome State Fault Refusal := nextAction

/-- `s` with the command word `w` presented at the next edge (log entry 7). The ports carry 21 bits, whatever `nbits`. -/
def State.withFetchWord (s : State) (nbits w : Nat) : State :=
  s.presentWord (BitVec.ofNat 21 (w % 2 ^ nbits))

end Sys2Proof.Machine
end

