-- ==== Sys2Proof/Machine/Assembly.lean ====
section
/-! DEFINITION. The line syntax of test programs and its expansion into edges: R67, R68, D16. The lines stand here as data;
reading them from text is the excluded collaborator's (R6). -/

namespace Sys2Proof.Machine

/-- A line of the test syntax. `m` marks the `.M` forms. -/
inductive AsmLine where
  | enc (m : Bool) (block : Block) (key : Key)
  | dec (m : Bool) (block : Block) (key : Key)
  /-- `NOP n`; the plain `NOP` is `nop 1`. -/
  | nop (n : Nat)
  | rst
  /-- `ENCDEC`, and the `.M` form of it that program P4 of spec/95_test_vectors.md names. -/
  | encdec (m : Bool) (block : Block) (key : Key)
  deriving DecidableEq, Repr

/-- The sample with `rst = 1`; the word is written 0 (R68). -/
def Sample.resetSample : Sample := { Sample.ofWord 0 with rst := true }

/-- The edges a line stands for, one action each (R67, R68). `NOP n` needs `n` of at least 1. -/
def AsmLine.expand? : AsmLine → Option (List HostAction)
  | .enc m block key => some [.drive (Sample.ofWord (encode (.enc m key block)))]
  | .dec m block key => some [.drive (Sample.ofWord (encode (.dec m key block)))]
  | .nop 0 => none
  | .nop (n + 1) => some (List.replicate (n + 1) (.drive (Sample.ofWord (encode .nop))))
  | .rst => some [.drive Sample.resetSample]
  | .encdec m block key =>
    some [.drive (Sample.ofWord (encode (.enc m key block))), .feedBack (Sample.ofWord (encode (.dec m key 0)))]

/-- A program is a sequence of lines, one after the other (R67). -/
def assemble? : List AsmLine → Option (List HostAction)
  | [] => some []
  | l :: ls =>
    match l.expand?, assemble? ls with
    | some a, some b => some (a ++ b)
    | _, _ => none

end Sys2Proof.Machine
end

