-- ==== Sys2Proof/Safety.lean ====
section
/-! DEFINITION. The terms in which claims are made: what the registers may hold, and the spec's own step (R411) and
run (R431). -/

namespace Sys2Proof.Machine

/-- The host cuts no power from here on, so the registers are never those of R31. -/
def State.Powered (s : State) : Prop := HostAction.powerCycle ∉ s.host

/-- The registers hold what reset leaves (R30). -/
def State.AtReset (s : State) : Prop :=
  s.rspValid = false ∧ s.rspData = 0x00#8 ∧ s.rspSwap = 0x00#8

/-- `rsp_data` and `rsp_swap` hold the two results of one and the same command (R45, R206, R207). -/
def State.ShowsResult (s : State) : Prop :=
  ∃ d m x key, cipher hardware d m x key = ⟨s.rspData, s.rspSwap⟩

/-- The registers hold a result or what reset leaves. -/
def State.Coherent (s : State) : Prop := s.AtReset ∨ s.ShowsResult

/-- The right half of the block before the last permutation is L1, and L1 is the right half of the post-swap
value (R200, R24): the two registers agree on it. -/
def State.HalvesAgree (s : State) : Prop :=
  (slice (permute s.rspData hardware.ip) 4 4 : Half) = slice s.rspSwap 4 4

/-- The step of R411, read off the rule: the registers after an edge with the sample `x`. -/
def State.afterEdge (s : State) (x : Sample) : State :=
  if x.rst then { s with rspValid := false, rspData := 0x00#8, rspSwap := 0x00#8 }
  else if x.cmdValid = false then { s with rspValid := false }
  else
    let r := cipher hardware (if x.cmdOp then .decrypt else .encrypt) x.cmdMods1 x.cmdData x.cmdKey
    { s with rspValid := true, rspData := r.out, rspSwap := r.swap }

/-- The state after a sequence of samples (R431). -/
def State.afterEdges (s : State) : List Sample → State
  | [] => s
  | x :: xs => (s.afterEdge x).afterEdges xs

end Sys2Proof.Machine
end

