-- ==== Sys2Proof/Certificates/Slice0/Obligations.lean ====
section
/-! DEFINITION. The statements for the provers. `T` ranges over every configuration that passes the check of R101, R108
and R173, and `hardware` is this hardware's; where a statement says `hardware` and speaks of `m = true`, it holds whatever
the OPEN table R173 is. -/

open Sys2Proof Sys2Proof.Machine

/-! ### The command word -/

/-- Words written out from the field layout of R61 and the examples of R67 decode to their commands. -/
def Obligations.DecodeSpecWords : Prop :=
  decode 0x1282BD = .enc false 0x282 0xBD ∧
  decode 0x1682BD = .enc true 0x282 0xBD ∧
  decode 0x1A8275 = .dec false 0x282 0x75 ∧
  decode 0x1E82BD = .dec true 0x282 0xBD ∧
  decode 0x000000 = .nop ∧
  decode 0x0FFFFF = .nop

/-- R62: the command a word selects, by its bits and by match and mask. -/
def Obligations.DecodeSelectsByTopBits : Prop :=
  ∀ w : CommandWord,
    (decode w =
      if w.getLsbD 20 = false then .nop
      else if w.getLsbD 19 = false then .enc (w.getLsbD 18) (w.extractLsb' 8 10) (w.extractLsb' 0 8)
      else .dec (w.getLsbD 18) (w.extractLsb' 8 10) (w.extractLsb' 0 8)) ∧
    (w &&& 0x100000 = 0x000000 ↔ decode w = .nop) ∧
    (w &&& 0x180000 = 0x100000 ↔ ∃ m key block, decode w = .enc m key block) ∧
    (w &&& 0x180000 = 0x180000 ↔ ∃ m key block, decode w = .dec m key block)

/-- R63: where each operand bit stands in the word, and that every operand value is the operand of some word. -/
def Obligations.OperandsAssembledFromWord : Prop :=
  (∀ (w : CommandWord) (m : Bool) (key : Key) (block : Block),
    decode w = .enc m key block ∨ decode w = .dec m key block →
      (∀ i, i ≤ 9 → key.getMsbD i = w.getLsbD (17 - i)) ∧
      (∀ i, i ≤ 7 → block.getMsbD i = w.getLsbD (7 - i)) ∧
      m = w.getLsbD 18 ∧
      (decode w = .dec m key block ↔ w.getLsbD 19 = true)) ∧
  (∀ (m : Bool) (key : Key) (block : Block),
    (∃ w, decode w = .enc m key block) ∧ (∃ w, decode w = .dec m key block))

/-- Decoding an encoded command gives it back, for every command and every operand. -/
def Obligations.DecodeOfEncode : Prop :=
  ∀ i : Instr, decode (encode i) = i

/-- Encoding the command a word selects gives the word back, but for the ignored bits of a NOP. -/
def Obligations.EncodeOfDecode : Prop :=
  ∀ w : CommandWord, encode (decode w) = if w.getLsbD 20 then w else 0

/-- The command a sample presents, port by port; `rst` is no part of the word. -/
def Obligations.SamplePresentsCommand : Prop :=
  ∀ x : Sample,
    decode x.commandWord =
      match x.cmdValid, x.cmdOp with
      | false, _ => .nop
      | true, false => .enc x.cmdMods1 x.cmdKey x.cmdData
      | true, true => .dec x.cmdMods1 x.cmdKey x.cmdData

/-- Samples with `rst = 0` and command words are the same thing. -/
def Obligations.SamplesAreWords : Prop :=
  (∀ w : CommandWord, (Sample.ofWord w).commandWord = w) ∧
  (∀ x : Sample, x.rst = false → Sample.ofWord x.commandWord = x)

/-! ### The commands -/

/-- R206: the edge that accepts an ENC; its worked example; and that it does what DEC does when the subkeys are equal. -/
def Obligations.EncWritesResponse : Prop :=
  (∀ (m : Bool) (key : Key) (block : Block) (s : State),
    exec (.enc m key block) s = .next { s with
      rspValid := true
      rspData := (cipher hardware .encrypt m block key).out
      rspSwap := (cipher hardware .encrypt m block key).swap }) ∧
  (∀ (m : Bool) (key : Key) (block : Block) (s : State),
    clockEdge ⟨false, true, false, m, key, block⟩ s = exec (.enc m key block) s) ∧
  (∀ s : State, clockEdge (Sample.ofWord 0x1282BD) s =
    .next { s with rspValid := true, rspData := 0x75, rspSwap := 0xEC }) ∧
  (∀ (m : Bool) (key : Key) (block : Block) (s : State),
    (schedule hardware key).k1 = (schedule hardware key).k2 →
      exec (.enc m key block) s = exec (.dec m key block) s)

/-- R207: the edge that accepts a DEC; its worked example; and that it undoes the ENC with the same key and variant. -/
def Obligations.DecWritesResponse : Prop :=
  (∀ (m : Bool) (key : Key) (block : Block) (s : State),
    exec (.dec m key block) s = .next { s with
      rspValid := true
      rspData := (cipher hardware .decrypt m block key).out
      rspSwap := (cipher hardware .decrypt m block key).swap }) ∧
  (∀ (m : Bool) (key : Key) (block : Block) (s : State),
    clockEdge ⟨false, true, true, m, key, block⟩ s = exec (.dec m key block) s) ∧
  (∀ s : State, clockEdge (Sample.ofWord 0x1A8275) s =
    .next { s with rspValid := true, rspData := 0xBD, rspSwap := 0xCE }) ∧
  (∀ (m : Bool) (key : Key) (block : Block) (s : State),
    ∃ t, exec (.dec m key (encrypt hardware block key m)) s = .next t ∧ t.rspData = block)

/-- R208: an edge without a command; its corner cases after a reset and after a command. -/
def Obligations.NopClearsValid : Prop :=
  (∀ s : State, exec .nop s = .next { s with rspValid := false }) ∧
  (∀ (op m : Bool) (key : Key) (block : Block) (s : State),
    clockEdge ⟨false, false, op, m, key, block⟩ s = exec .nop s) ∧
  (exec .nop State.reset = .next State.reset) ∧
  (∀ s : State, exec .nop { s with rspValid := true, rspData := 0x75, rspSwap := 0xEC } =
    .next { s with rspValid := false, rspData := 0x75, rspSwap := 0xEC })

/-- The frame of NOP, ENC and DEC: NOP changes nothing but `rsp_valid`; ENC and DEC change nothing but the three response
registers. The engine has no other register and no memory, so this is all of it; `host` and `powerUps` are the model's own
fields (log entries 3 and 4). -/
def Obligations.CommandFrame : Prop :=
  ∀ (i : Instr) (s t : State), exec i s = .next t →
    t.host = s.host ∧ t.powerUps = s.powerUps ∧
    (i = .nop → t.rspData = s.rspData ∧ t.rspSwap = s.rspSwap)

/-- The response to a command depends on nothing the engine held before it: not on an earlier command, not on whether
there was a reset. -/
def Obligations.ResponseIgnoresOldState : Prop :=
  ∀ (x : Sample) (s₁ s₂ : State), x.rst = false → x.cmdValid = true →
    ∃ t₁ t₂, clockEdge x s₁ = .next t₁ ∧ clockEdge x s₂ = .next t₂ ∧
      t₁.rspValid = t₂.rspValid ∧ t₁.rspData = t₂.rspData ∧ t₁.rspSwap = t₂.rspSwap

/-- R32: without a command the other command ports have no effect on any state. -/
def Obligations.IdlePortsIgnored : Prop :=
  ∀ (x y : Sample) (s : State), x.cmdValid = false → y.cmdValid = false → x.rst = y.rst →
    clockEdge x s = clockEdge y s

/-! ### The step -/

/-- A step at a sample with `rst = 0` is the decoded command (R411, R62), run with the sample taken off the host's list.
That the samples to come stand in a list, of which a step takes the first, is the model's choice (log entry 3). The second
clause is the meaning of the model's own host action `feedBack` (log entry 6, DESIGN CHOICE), for every sample: R68 has the
host feed `rsp_data` back only at ENCDEC's second edge. -/
def Obligations.StepRunsDecodedCommand : Prop :=
  ∀ (s : State) (x : Sample) (rest : List HostAction), x.rst = false →
    (s.host = .drive x :: rest → step s = exec (decode x.commandWord) { s with host := rest }) ∧
    (s.host = .feedBack x :: rest →
      step s = exec (decode { x with cmdData := s.rspData }.commandWord) { s with host := rest })

/-- A word presented at the next edge is the command the next step runs. How a word is placed before the step, and which
numbers are words, is the model's choice (log entry 7). -/
def Obligations.PresentedWordRuns : Prop :=
  ∀ (s : State) (nbits w : Nat), 21 ≤ nbits → w < 2 ^ 21 →
    step (s.withFetchWord nbits w) = exec (decode (BitVec.ofNat 21 w)) s ∧
    decodeTableWord nbits w = some (decode (BitVec.ofNat 21 w))

/-- R400: reset, whatever the other inputs. The sample comes off the host's list (log entry 3, the model's choice). -/
def Obligations.ResetDiscardsCommand : Prop :=
  ∀ (s : State) (x : Sample) (rest : List HostAction), x.rst = true → s.host = .drive x :: rest →
    step s = .next { s with rspValid := false, rspData := 0x00, rspSwap := 0x00, host := rest }

/-- R411: the complete step, on every state and every sample. The sample comes off the host's list (log entry 3, the
model's choice of how a step is given its input). -/
def Obligations.StepIsCompleteStep : Prop :=
  ∀ (s : State) (x : Sample) (rest : List HostAction), s.host = .drive x :: rest →
    step s = .next
      (if x.rst then { s with rspValid := false, rspData := 0x00, rspSwap := 0x00, host := rest }
       else if x.cmdValid = false then { s with rspValid := false, host := rest }
       else
        let d := if x.cmdOp then Direction.decrypt else Direction.encrypt
        let r := cipher hardware d x.cmdMods1 x.cmdData x.cmdKey
        { s with rspValid := true, rspData := r.out, rspSwap := r.swap, host := rest })

/-- A run over samples (R431) is the step of R411 folded over them, one edge each. The samples stand on the host's list
(log entry 3, the model's choice). -/
def Obligations.RunFoldsCompleteStep : Prop :=
  ∀ (xs : List Sample) (s : State) (rest : List HostAction), s.host = xs.map .drive ++ rest →
    Host.Core.run Sys2Proof.core xs.length s = .next ({ s with host := rest }.afterEdges xs)

/-- R401: reset held for several edges. The samples stand on the host's list (log entry 3, the model's choice). -/
def Obligations.ResetHeldForEdges : Prop :=
  ∀ (xs : List Sample) (s : State) (rest : List HostAction), xs ≠ [] → (∀ x ∈ xs, x.rst = true) →
    s.host = xs.map .drive ++ rest →
    Host.Core.run Sys2Proof.core xs.length s =
      .next { s with rspValid := false, rspData := 0x00, rspSwap := 0x00, host := rest }

/-- Without commands the last result stays readable, for as many edges as the host likes (R208, R424). The samples stand
on the host's list (log entry 3, the model's choice). -/
def Obligations.IdleHoldsResult : Prop :=
  ∀ (xs : List Sample) (s : State) (rest : List HostAction), xs ≠ [] →
    (∀ x ∈ xs, x.rst = false ∧ x.cmdValid = false) → s.host = xs.map .drive ++ rest →
    Host.Core.run Sys2Proof.core xs.length s = .next { s with rspValid := false, host := rest }

/-- R25: what sets and clears `rsp_valid`, and that no command reads it. The sample comes off the host's list (log entry 3,
the model's choice). -/
def Obligations.ValidMarksAcceptance : Prop :=
  (∀ (s : State) (x : Sample) (rest : List HostAction), s.host = .drive x :: rest →
    ∃ t, step s = .next t ∧ t.rspValid = (!x.rst && x.cmdValid)) ∧
  (∀ (i : Instr) (s : State) (b : Bool), exec i { s with rspValid := b } = exec i s)

/-- A run ends where its sequence of samples ends (R431). That the model answers this with a refusal of its own is its
choice (log entry 3). -/
def Obligations.RunEndsWithSamples : Prop :=
  ∀ s : State, s.host = [] → step s = .refused .endOfRun

/-- Every command completes (R300, R64), and a step is refused in three cases only. Two of the three are cases the spec
has a model refuse: a non-binary port bit (R301, D22, U4; log entry 5 on which ports) and a timing violation (D22, U5),
whose form as a host action is the model's choice (log entry 9). The third, `endOfRun`, is the model's choice (log entry
3): R431 says that a run ends where its samples end, not what a step does there. The clause on faults holds of any step,
because the model's type of faults has no constructor (log entry 11, DEDUCED from R300). -/
def Obligations.OnlyUnspecifiedStepsStop : Prop :=
  (∀ (w : CommandWord) (s : State), ∃ t, exec (decode w) s = .next t) ∧
  (∀ (s : State) (f : Fault), step s ≠ .fault f) ∧
  (∀ (s : State) (r : Refusal), step s = .refused r →
    (r = .endOfRun ∧ s.host = []) ∨
    (r = .nonBinaryPort ∧ ∃ l rest, s.host = .wires l :: rest ∧ ∀ x : Sample, l ≠ x.levels) ∨
    (r = .timingViolation ∧ ∃ rest, s.host = .timingViolation :: rest))

/-- D22 and U5: an edge with a setup or hold violation, or a glitch of `clk`, is refused. That such an edge is a host action
of its own is the model's choice (log entry 9). -/
def Obligations.TimingViolationRefused : Prop :=
  ∀ (s : State) (rest : List HostAction), s.host = .timingViolation :: rest → step s = .refused .timingViolation

/-- Wires that carry a sample act as the sample; wires on which some bit is neither 0 nor 1 are refused, on whatever
port (log entry 5, DEDUCED). -/
def Obligations.WiresCarrySampleOrRefused : Prop :=
  (∀ (s : State) (x : Sample) (rest : List HostAction), s.host = .wires x.levels :: rest →
    step s = step { s with host := .drive x :: rest }) ∧
  (∀ (s : State) (l : PortLevels) (rest : List HostAction), s.host = .wires l :: rest →
    (∀ x : Sample, l ≠ x.levels) → step s = .refused .nonBinaryPort)

/-- After a loss of power (R312) the registers are free values (R31), until a reset or a command writes them. Rests on the
model's free values (log entry 4) and on a loss of power being a step of its own (log entry 10), both the model's choice;
it holds for all free values. -/
def Obligations.PowerCycleThenEdge : Prop :=
  ∀ (s : State) (x : Sample) (rest : List HostAction), s.host = .powerCycle :: .drive x :: rest →
    (∃ t, step s = .next t ∧ t.host = .drive x :: rest ∧ t.rspValid = Config.powerUpValid s.powerUps ∧
      t.rspData = Config.powerUpData s.powerUps ∧ t.rspSwap = Config.powerUpSwap s.powerUps) ∧
    (x.rst = true ∨ x.cmdValid = true →
      ∀ s' : State, s'.host = .drive x :: rest → ∃ t t' : State, Host.Core.run Sys2Proof.core 2 s = .next t ∧
        step s' = .next t' ∧ t.rspValid = t'.rspValid ∧ t.rspData = t'.rspData ∧ t.rspSwap = t'.rspSwap)

/-! ### Reset and invariants -/

/-- R30: what reset leaves in every piece of the engine's state. -/
def Obligations.ResetValues : Prop :=
  State.reset.rspValid = false ∧ State.reset.rspData = 0x00 ∧ State.reset.rspSwap = 0x00 ∧
  (∀ (x : Sample) (s : State), x.rst = true → ∃ t, clockEdge x s = .next t ∧
    t.rspValid = State.reset.rspValid ∧ t.rspData = State.reset.rspData ∧ t.rspSwap = State.reset.rspSwap)

/-- The invariants below hold right after reset. Coherent and HalvesAgree hold by the values of R30. Powered is about the
model's own fields only: it holds because the host's list is empty at reset (log entry 3, DESIGN CHOICE), and speaks of a loss
of power as a host action (log entry 10, DESIGN CHOICE). -/
def Obligations.InvariantsHoldAtReset : Prop :=
  State.reset.Powered ∧ State.reset.Coherent ∧ State.reset.HalvesAgree

/-- While power stays on (log entry 10, the model's choice of how power is lost), the two result registers always hold what reset leaves or the results of ONE command. -/
def Obligations.StepKeepsCoherent : Prop :=
  ∀ s t : State, s.Powered → s.Coherent → step s = .next t → t.Powered ∧ t.Coherent

/-- While power stays on (log entry 10, the model's choice of how power is lost), `rsp_data` and `rsp_swap` agree on the half block L1 that both are made from. -/
def Obligations.StepKeepsHalvesAgree : Prop :=
  ∀ s t : State, s.Powered → s.HalvesAgree → step s = .next t → t.Powered ∧ t.HalvesAgree

/-! ### Permutations -/

/-- R100: the bits of a permuted vector, the all-zero and all-one inputs, and the worked example. -/
def Obligations.PermuteSelectsBits : Prop :=
  (∀ (n m : Nat) (x : BitVec n) (T : PermTable m) (i : Fin m), (permute x T).getMsbD i = x.getMsbD (T[i] - 1)) ∧
  (∀ (n m : Nat) (T : PermTable m), (∀ i : Fin m, 1 ≤ T[i] ∧ T[i] ≤ n) →
    permute (BitVec.zero n) T = BitVec.zero m ∧ permute (BitVec.allOnes n) T = BitVec.allOnes m) ∧
  permute (0b10111101 : Block) hardware.ip = (0b01111110 : Block)

/-- R110: permutations are linear, and determined by the images of the one-hot vectors. -/
def Obligations.PermuteLinear : Prop :=
  (∀ (n m : Nat) (x y : BitVec n) (T : PermTable m), permute (x ^^^ y) T = permute x T ^^^ permute y T) ∧
  (∀ (n m : Nat) (T : PermTable m), permute (BitVec.zero n) T = BitVec.zero m) ∧
  (∀ (n m : Nat) (T T' : PermTable m),
    (∀ j : Fin n, permute (ofBits fun i => decide (i = j)) T = permute (ofBits fun i => decide (i = j)) T') →
      ∀ x : BitVec n, permute x T = permute x T')

/-- R102 to R107, R171, R172: the tables this hardware holds, as the spec writes them. -/
def Obligations.HardwareTableEntries : Prop :=
  hardware.p10.toList = [3, 5, 2, 7, 4, 10, 1, 9, 8, 6] ∧
  hardware.p8.toList = [6, 3, 7, 4, 8, 5, 10, 9] ∧
  hardware.p4.toList = [2, 4, 3, 1] ∧
  hardware.ip.toList = [2, 6, 3, 1, 4, 8, 5, 7] ∧
  hardware.invip.toList = [4, 1, 3, 5, 7, 2, 8, 6] ∧
  hardware.ep.toList = [4, 1, 2, 3, 2, 3, 4, 1] ∧
  hardware.s0.toList.map Vector.toList = [[1, 0, 3, 2], [3, 2, 1, 0], [0, 2, 1, 3], [3, 1, 3, 2]] ∧
  hardware.s1.toList.map Vector.toList = [[0, 1, 2, 3], [2, 0, 1, 3], [3, 0, 1, 0], [2, 1, 0, 3]]

/-- R102 to R107: the output vector of each table, for every input. -/
def Obligations.PermutationOutputVectors : Prop :=
  (∀ k : Key, (List.range 10).map (permute k hardware.p10).getMsbD = [2, 4, 1, 6, 3, 9, 0, 8, 7, 5].map k.getMsbD) ∧
  (∀ v : BitVec 10, (List.range 8).map (permute v hardware.p8).getMsbD = [5, 2, 6, 3, 7, 4, 9, 8].map v.getMsbD) ∧
  (∀ s : Half, (List.range 4).map (permute s hardware.p4).getMsbD = [1, 3, 2, 0].map s.getMsbD) ∧
  (∀ x : Block, (List.range 8).map (permute x hardware.ip).getMsbD = [1, 5, 2, 0, 3, 7, 4, 6].map x.getMsbD) ∧
  (∀ y : Block, (List.range 8).map (permute y hardware.invip).getMsbD = [3, 0, 2, 4, 6, 1, 7, 5].map y.getMsbD) ∧
  (∀ r : Half, (List.range 8).map (permute r hardware.ep).getMsbD = [3, 0, 1, 2, 1, 2, 3, 0].map r.getMsbD)

/-- R109: IP and its inverse, for every configuration that passes the check. -/
def Obligations.IpAndInvipAreInverse : Prop :=
  ∀ (T : Tables) (x : Block), permute (permute x T.ip) T.invip = x ∧ permute (permute x T.invip) T.ip = x

/-! ### Configuration -/

/-- R101, R108 and R173: exactly the configurations that the spec has a model refuse are refused. -/
def Obligations.MalformedTablesRefused : Prop :=
  ∀ R : RawTables, (∃ T, Tables.ofRaw? R = some T ∧ T.toRawTables = R) ↔
    (∀ v, 1 ≤ v → v ≤ 10 → R.p10.toList.count v = 1) ∧
    ((∀ e ∈ R.p8.toList, 1 ≤ e ∧ e ≤ 10) ∧ R.p8.toList.Nodup) ∧
    (∀ v, 1 ≤ v → v ≤ 4 → R.p4.toList.count v = 1) ∧
    (∀ v, 1 ≤ v → v ≤ 8 → R.ip.toList.count v = 1) ∧
    (∀ v, 1 ≤ v → v ≤ 8 → R.invip.toList.count v = 1) ∧
    (∀ e ∈ R.ep.toList, 1 ≤ e ∧ e ≤ 4) ∧
    (∀ p : Fin 8, R.ip[R.invip[p] - 1]? = some (p.val + 1) ∧ R.invip[R.ip[p] - 1]? = some (p.val + 1)) ∧
    (∃ r c : Fin 4, R.s1Mod[r][c] ≠ R.s1[r][c])

/-- R173, D12: the modified S1 table differs from the default S1; it is the table of the model's free choice
`Config.s1ModChoice`; and the tables of the choices are exactly those that differ from the default S1. The encoding of a
table as a choice, `S1ModChoice` and `modifiedTable`, is the model's (log entry 2, DESIGN CHOICE). That the choice itself is
left open is not in this statement: it is that `Config.s1ModChoice` has no body. -/
def Obligations.ModifiedTableOpenButDifferent : Prop :=
  (∃ r c : Fin 4, hardware.s1Mod[r][c] ≠ hardware.s1[r][c]) ∧
  (hardware.s1Mod = modifiedTable tblS1 Config.s1ModChoice) ∧
  (∀ M : SBoxTable, (∃ r c : Fin 4, M[r][c] ≠ tblS1[r][c]) ↔ ∃ choice, modifiedTable tblS1 choice = M)

/-! ### Key schedule -/

/-- R130 and R131: the circular left shift, its identities and their examples. -/
def Obligations.RotlIdentities : Prop :=
  (∀ (l : Nat) (x : BitVec l) (t : Nat) (i : Fin l), (rotl x t).getMsbD i = x.getMsbD ((i + t) % l)) ∧
  (∀ (l : Nat) (x : BitVec l), rotl x l = x) ∧
  (∀ (l : Nat) (x : BitVec l) (t : Nat), rotl x t = rotl x (t % l)) ∧
  (∀ (l : Nat) (x : BitVec l) (a b : Nat), rotl (rotl x a) b = rotl x (a + b)) ∧
  rotl (0b10110 : KeyHalf) 1 = 0b01101 ∧ rotl (0b10110 : KeyHalf) 2 = 0b11010 ∧
  rotl (0b10110 : KeyHalf) 5 = 0b10110 ∧ rotl (0b10110 : KeyHalf) 7 = 0b11010 ∧ rotl (0b10110 : KeyHalf) 0 = 0b10110

/-- R133: LS-2 shifts `ls1` by 2, which is the P10 output shifted by 3, and is not the P10 output shifted by 2. -/
def Obligations.Ls2ShiftsLs1 : Prop :=
  (∀ (T : Tables) (key : Key), ls2 T key =
    rotl (slice (ls1 T key) 0 5 : KeyHalf) 2 ++ rotl (slice (ls1 T key) 5 5 : KeyHalf) 2) ∧
  (∀ (T : Tables) (key : Key), ls2 T key =
    rotl (slice (p10Key T key) 0 5 : KeyHalf) 3 ++ rotl (slice (p10Key T key) 5 5 : KeyHalf) 3) ∧
  (∃ key : Key, ls2 hardware key ≠
    rotl (slice (p10Key hardware key) 0 5 : KeyHalf) 2 ++ rotl (slice (p10Key hardware key) 5 5 : KeyHalf) 2)

/-- R134: the closed form of the key schedule, and which key bits reach which subkey. -/
def Obligations.ScheduleClosedForm : Prop :=
  (∀ key : Key,
    (List.range 10).map (p10Key hardware key).getMsbD = [2, 4, 1, 6, 3, 9, 0, 8, 7, 5].map key.getMsbD ∧
    (List.range 10).map (ls1 hardware key).getMsbD = [4, 1, 6, 3, 2, 0, 8, 7, 5, 9].map key.getMsbD ∧
    (List.range 10).map (ls2 hardware key).getMsbD = [6, 3, 2, 4, 1, 7, 5, 9, 0, 8].map key.getMsbD ∧
    (List.range 8).map (schedule hardware key).k1.getMsbD = [0, 6, 8, 3, 7, 2, 9, 5].map key.getMsbD ∧
    (List.range 8).map (schedule hardware key).k2.getMsbD = [7, 2, 5, 4, 9, 1, 8, 0].map key.getMsbD) ∧
  (∀ k k' : Key, (∀ i, i ≠ 1 → i ≠ 4 → k.getMsbD i = k'.getMsbD i) →
    (schedule hardware k).k1 = (schedule hardware k').k1) ∧
  (∀ k k' : Key, (∀ i, i ≠ 3 → i ≠ 6 → k.getMsbD i = k'.getMsbD i) →
    (schedule hardware k).k2 = (schedule hardware k').k2) ∧
  (∀ k k' : Key, k ≠ k' → schedule hardware k ≠ schedule hardware k')

/-- R135: the key of the known vector. -/
def Obligations.KnownKeySchedule : Prop :=
  p10Key hardware 0b1010000010 = 0b1000001100 ∧ ls1 hardware 0b1010000010 = 0b0000111000 ∧
  ls2 hardware 0b1010000010 = 0b0010000011 ∧ schedule hardware 0b1010000010 = ⟨0b10100100, 0b01000011⟩

/-- R136: the corner cases of the key schedule, and the eight keys with equal subkeys. -/
def Obligations.EqualSubkeysOfEightKeys : Prop :=
  schedule hardware 0b0000000000 = ⟨0b00000000, 0b00000000⟩ ∧
  schedule hardware 0b1111111111 = ⟨0b11111111, 0b11111111⟩ ∧
  (∀ key : Key, (schedule hardware key).k1 = (schedule hardware key).k2 ↔
    key ∈ ([0b0000000000, 0b0001100000, 0b0110001000, 0b0111101000, 0b1000010111, 0b1001110111, 0b1110011111,
      0b1111111111] : List Key)) ∧
  (∀ key ∈ ([0b0000000000, 0b0001100000, 0b0110001000, 0b0111101000, 0b1000010111, 0b1001110111, 0b1110011111,
      0b1111111111] : List Key), ∀ (m : Bool) (x : Block),
    cipher hardware .encrypt m x key = cipher hardware .decrypt m x key)

/-! ### S-boxes and rounds -/

/-- R174: which cell a half addresses, and how the cell is written as two bits. -/
def Obligations.LookupReadsAddressedCell : Prop :=
  (∀ (h : Half) (S : SBoxTable) (row col : Fin 4),
    row.val = 2 * (h.getMsbD 0).toNat + (h.getMsbD 3).toNat →
    col.val = 2 * (h.getMsbD 1).toNat + (h.getMsbD 2).toNat →
      ((lookup h S).getMsbD 0).toNat = S[row][col].val / 2 ∧ ((lookup h S).getMsbD 1).toNat = S[row][col].val % 2) ∧
  lookup 0b1101 tblS0 = 0b11

/-- R177: the default S-boxes, address by address. -/
def Obligations.FlattenedSBoxes : Prop :=
  (List.range 16).map (fun h => lookup (BitVec.ofNat 4 h) hardware.s0) =
    [0b01, 0b11, 0b00, 0b10, 0b11, 0b01, 0b10, 0b00, 0b00, 0b11, 0b10, 0b01, 0b01, 0b11, 0b11, 0b10] ∧
  (List.range 16).map (fun h => lookup (BitVec.ofNat 4 h) hardware.s1) =
    [0b00, 0b10, 0b01, 0b00, 0b10, 0b01, 0b11, 0b11, 0b11, 0b10, 0b00, 0b01, 0b01, 0b00, 0b00, 0b11]

/-- R175: the two lookups, which tables they use, and that the variant never affects the S0 half. -/
def Obligations.VariantSelectsOnlyS1 : Prop :=
  (∀ (T : Tables) (x : BitVec 8) (m : Bool), sbox T x m =
    lookup (slice x 0 4) T.s0 ++ lookup (slice x 4 4) (if m = true then T.s1Mod else T.s1)) ∧
  (∀ (T : Tables) (x : BitVec 8) (m m' : Bool), (slice (sbox T x m) 0 2 : BitVec 2) = slice (sbox T x m') 0 2) ∧
  sbox hardware 0b00000000 false = 0b0100 ∧ sbox hardware 0b11011001 false = 0b1110

/-- R153: the S-box addresses of a round in closed form. -/
def Obligations.RoundSBoxAddresses : Prop :=
  ∀ (r : Half) (sk : SubKey) (h : Half),
    (h = slice (mixed hardware r sk) 0 4 →
      (sboxRow h).val = 2 * (r.getMsbD 3 ^^ sk.getMsbD 0).toNat + (r.getMsbD 2 ^^ sk.getMsbD 3).toNat ∧
      (sboxCol h).val = 2 * (r.getMsbD 0 ^^ sk.getMsbD 1).toNat + (r.getMsbD 1 ^^ sk.getMsbD 2).toNat) ∧
    (h = slice (mixed hardware r sk) 4 4 →
      (sboxRow h).val = 2 * (r.getMsbD 1 ^^ sk.getMsbD 4).toNat + (r.getMsbD 0 ^^ sk.getMsbD 7).toNat ∧
      (sboxCol h).val = 2 * (r.getMsbD 2 ^^ sk.getMsbD 5).toNat + (r.getMsbD 3 ^^ sk.getMsbD 6).toNat)

/-- R151 and R152: the round, and that it undoes itself, for every choice of the tables. -/
def Obligations.RoundUndoesItself : Prop :=
  (∀ (T : Tables) (l r : Half) (sk : SubKey) (m : Bool), fk T l r sk m = l ^^^ roundF T r sk m) ∧
  (∀ (T : Tables) (l r : Half) (sk : SubKey) (m : Bool), fk T l r sk m ^^^ l = roundF T r sk m) ∧
  (∀ (T : Tables) (l r : Half) (sk : SubKey) (m : Bool), fk T (fk T l r sk m) r sk m = l) ∧
  fk hardware 0b0111 0b1110 0b10100100 false = 0b1100

/-! ### The cipher -/

/-- R202: the closed form of the cipher. -/
def Obligations.CipherClosedForm : Prop :=
  (∀ a b : Half, swapHalves (a ++ b) = b ++ a) ∧
  (∀ (T : Tables) (k : SubKey) (m : Bool) (a b : Half), fkBlock T k m (a ++ b) = fk T a b k m ++ b) ∧
  (∀ (T : Tables) (d : Direction) (m : Bool) (x : Block) (key : Key) (kA kB : SubKey),
    (kA, kB) = (match d with
      | .encrypt => ((schedule T key).k1, (schedule T key).k2)
      | .decrypt => ((schedule T key).k2, (schedule T key).k1)) →
    (cipher T d m x key).out =
      permute (fkBlock T kB m (swapHalves (fkBlock T kA m (permute x T.ip)))) T.invip)

/-- R211: with equal subkeys the two directions are the same function, in every configuration. -/
def Obligations.EqualSubkeysSameCipher : Prop :=
  ∀ (T : Tables) (key : Key), (schedule T key).k1 = (schedule T key).k2 →
    ∀ (m : Bool) (x : Block), cipher T .encrypt m x key = cipher T .decrypt m x key

/-- R209: decryption undoes encryption and the other way round, in every configuration. -/
def Obligations.RoundTrip : Prop :=
  ∀ (T : Tables) (x : Block) (key : Key) (m : Bool),
    decrypt T (encrypt T x key m) key m = x ∧ encrypt T (decrypt T x key m) key m = x

/-- R210: the decryption's post-swap value is the encryption's with its halves exchanged. -/
def Obligations.PostSwapOfDecryption : Prop :=
  ∀ (T : Tables) (m : Bool) (p : Block) (key : Key) (r₀ l₁ : Half),
    (cipher T .encrypt m p key).swap = r₀ ++ l₁ →
      cipher T .decrypt m (cipher T .encrypt m p key).out key = ⟨p, l₁ ++ r₀⟩

/-- R178: under every key the S1 variant matters for some block, whatever the modified table is. The expansion table is
the one of R107, which the rule's own argument uses; all other tables are any that pass the check. -/
def Obligations.VariantMatters : Prop :=
  ∀ T : Tables, T.ep = tblEp → ∀ key : Key, ∃ p : Block, encrypt T p key true ≠ encrypt T p key false

/-- R216: the known vector, with its trace. -/
def Obligations.KnownVector : Prop :=
  cipher hardware .encrypt false 0b10111101 0b1010000010 = ⟨0b01110101, 0b11101100⟩ ∧
  schedule hardware 0b1010000010 = ⟨0b10100100, 0b01000011⟩ ∧
  permute (0b10111101 : Block) hardware.ip = (0b01111110 : Block) ∧
  fk hardware 0b0111 0b1110 0b10100100 false = 0b1100 ∧
  fk hardware 0b1110 0b1100 0b01000011 false = 0b1110 ∧
  permute (0b11101100 : Block) hardware.invip = (0b01110101 : Block)

/-! ### Test syntax -/

/-- R67 and R68: the words of the lines and their expansion into edges. Three parts are the model's choice: that `NOP 0` is
refused and that ENCDEC has a form with the modified S1 (log entry 13; program P4 names that form), and that ENCDEC's
second edge is the host action `feedBack` (log entry 6). -/
def Obligations.LinesExpandToEdges : Prop :=
  (∀ (m : Bool) (b : Block) (k : Key), (AsmLine.enc m b k).expand? = some [.drive ⟨false, true, false, m, k, b⟩]) ∧
  (∀ (m : Bool) (b : Block) (k : Key), (AsmLine.dec m b k).expand? = some [.drive ⟨false, true, true, m, k, b⟩]) ∧
  (∀ n : Nat, (AsmLine.nop n).expand? =
    if n = 0 then none else some (List.replicate n (.drive ⟨false, false, false, false, 0, 0⟩))) ∧
  (AsmLine.rst.expand? = some [.drive ⟨true, false, false, false, 0, 0⟩]) ∧
  (∀ (m : Bool) (b : Block) (k : Key), (AsmLine.encdec m b k).expand? =
    some [.drive ⟨false, true, false, m, k, b⟩, .feedBack ⟨false, true, true, m, k, 0⟩])

/-- R68, R209 and R210 on the running machine: the two edges of ENCDEC give the block back, from every state, in
both variants, with the halves of the post-swap value exchanged. Rests on the model's host action `feedBack` (log entry 6,
DESIGN CHOICE), on ENCDEC's form with the modified S1 (log entry 13, DESIGN CHOICE) and on the host's list of actions (log
entry 3, DESIGN CHOICE). -/
def Obligations.EncdecGivesBlockBack : Prop :=
  ∀ (s : State) (m : Bool) (block : Block) (key : Key) (rest : List HostAction) (as : List HostAction),
    (AsmLine.encdec m block key).expand? = some as → s.host = as ++ rest →
      Host.Core.run Sys2Proof.core 2 s = .next { s with
        rspValid := true
        rspData := block
        rspSwap := swapHalves (cipher hardware .encrypt m block key).swap
        host := rest }
end

