-- ==== Sys2Proof/Laws/Bits.lean ====
section
/-! SUPPORT. Vectors by index: what bit a built vector, a slice, a concatenation or a permuted vector has at each index. -/

namespace Sys2Proof.Machine

theorem getMsbD_cons_zero {n : Nat} (b : Bool) (x : BitVec n) : (BitVec.cons b x).getMsbD 0 = b := by
  rw [BitVec.getMsbD_eq_getLsbD, BitVec.getLsbD_cons]
  simp

theorem getMsbD_cons_succ {n : Nat} (b : Bool) (x : BitVec n) (i : Nat) :
    (BitVec.cons b x).getMsbD (i + 1) = x.getMsbD i := by
  simp only [BitVec.getMsbD_eq_getLsbD, BitVec.getLsbD_cons]
  by_cases h : i < n
  · have h1 : n + 1 - 1 - (i + 1) ≠ n := by omega
    have h2 : n + 1 - 1 - (i + 1) = n - 1 - i := by omega
    rw [if_neg h1, h2]
    simp [h]
  · simp [h]

/-- The bit at index `i` of `ofBits f` is `f i` (R10). -/
theorem getMsbD_ofBits {n : Nat} (f : Fin n → Bool) (i : Fin n) : (ofBits f).getMsbD i = f i := by
  induction n with
  | zero => exact i.elim0
  | succ n ih =>
    refine Fin.cases ?_ (fun j => ?_) i
    · exact getMsbD_cons_zero _ _
    · exact (getMsbD_cons_succ _ _ _).trans (ih (fun k => f k.succ) j)

/-- The same for an index given as a number. -/
theorem getMsbD_ofBits_lt {n : Nat} (f : Fin n → Bool) (i : Nat) (h : i < n) :
    (ofBits f).getMsbD i = f ⟨i, h⟩ := getMsbD_ofBits f ⟨i, h⟩

/-- Two vectors with the same bit at every index are equal. -/
theorem ext_getMsbD {n : Nat} {x y : BitVec n} (h : ∀ i : Fin n, x.getMsbD i = y.getMsbD i) : x = y :=
  BitVec.eq_of_getMsbD_eq fun i hi => h ⟨i, hi⟩

/-- R11: bit `i` of a slice from `a` is bit `a + i`. -/
theorem getMsbD_slice {n : Nat} (x : BitVec n) (a len : Nat) (i : Fin len) :
    (slice x a len).getMsbD i = x.getMsbD (a + i) := getMsbD_ofBits _ i

/-- The first half of a concatenation (R11). -/
theorem slice_append_left {n m : Nat} (x : BitVec n) (y : BitVec m) : slice (x ++ y) 0 n = x := by
  refine ext_getMsbD fun i => ?_
  simp [getMsbD_slice, BitVec.getMsbD_append]

/-- The second half of a concatenation (R11). -/
theorem slice_append_right {n m : Nat} (x : BitVec n) (y : BitVec m) : slice (x ++ y) n m = y := by
  refine ext_getMsbD fun i => ?_
  simp [getMsbD_slice, BitVec.getMsbD_append]

/-- Splitting and recombining gives the vector back (R11). -/
theorem append_slices {n m : Nat} (x : BitVec (n + m)) : slice x 0 n ++ slice x n m = x := by
  refine ext_getMsbD fun i => ?_
  by_cases h : (i : Nat) < n
  · simp [BitVec.getMsbD_append, h, getMsbD_slice x 0 n ⟨i, h⟩]
  · have h' : (i : Nat) - n < m := by omega
    simp [BitVec.getMsbD_append, h, getMsbD_slice x n m ⟨i - n, h'⟩, Nat.add_sub_cancel' (Nat.le_of_not_lt h)]

/-- R100: bit `i` of a permuted vector is the bit at the position entry `i` of the table names. -/
theorem getMsbD_permute {n m : Nat} (x : BitVec n) (T : PermTable m) (i : Fin m) :
    (permute x T).getMsbD i = x.getMsbD (T[i] - 1) := getMsbD_ofBits _ i

end Sys2Proof.Machine
end

