-- ==== Sys2Proof/Laws/Decode.lean ====
section
/-! SUPPORT. The fields of a packed word are what was packed, and packing the fields of a word gives it back (R60, R61). -/

namespace Sys2Proof

variable (v d m : Bool) (key : Key) (block : Block) (w : CommandWord)

theorem valid_packWord : CommandWord.valid (packWord v d m key block) = v := by
  simp only [packWord, CommandWord.valid, BitVec.getLsbD_append]
  simp

theorem direction_packWord : CommandWord.direction (packWord v d m key block) = d := by
  simp only [packWord, CommandWord.direction, BitVec.getLsbD_append]
  simp

theorem modified_packWord : CommandWord.modified (packWord v d m key block) = m := by
  simp only [packWord, CommandWord.modified, BitVec.getLsbD_append]
  simp

theorem key_packWord : CommandWord.key (packWord v d m key block) = key := by
  refine BitVec.eq_of_getLsbD_eq fun i hi => ?_
  simp only [packWord, CommandWord.key, BitVec.getLsbD_extractLsb', BitVec.getLsbD_append]
  interval_cases i <;> simp

theorem block_packWord : CommandWord.block (packWord v d m key block) = block := by
  refine BitVec.eq_of_getLsbD_eq fun i hi => ?_
  simp only [packWord, CommandWord.block, BitVec.getLsbD_extractLsb', BitVec.getLsbD_append]
  interval_cases i <;> simp

theorem packWord_fields :
    packWord (CommandWord.valid w) (CommandWord.direction w) (CommandWord.modified w) (CommandWord.key w)
      (CommandWord.block w) = w := by
  refine BitVec.eq_of_getLsbD_eq fun i hi => ?_
  simp only [packWord, CommandWord.block, CommandWord.key, CommandWord.valid, CommandWord.direction,
    CommandWord.modified, BitVec.getLsbD_extractLsb', BitVec.getLsbD_append]
  interval_cases i <;> simp

end Sys2Proof
end

