-- ==== Sys2Proof/Laws/PerInstr.lean ====
section
/-! SUPPORT. Per-instruction laws: a command's word lies in its row of spec/opcode_table.json. -/

namespace Sys2Proof.Laws.TableRow

/-- The row's mask and match, as R62 gives them. -/
def row : Instr → CommandWord × CommandWord
  | .nop => (0x100000, 0x000000)
  | .enc _ _ _ => (0x180000, 0x100000)
  | .dec _ _ _ => (0x180000, 0x180000)

/-- The word of `i` has, under the row's mask, the row's match. -/
def Statement (i : Instr) : Prop := encode i &&& (row i).1 = (row i).2

/-- Under the mask of V and D a packed word keeps those two fields and no other (R61). -/
theorem packWord_and_opcode (v d m : Bool) (key : Key) (block : Block) :
    packWord v d m key block &&& 0x180000 = packWord v d false 0 0 := by
  apply BitVec.eq_of_getLsbD_eq
  intro i hi
  simp only [packWord, BitVec.getLsbD_and, BitVec.getLsbD_append]
  interval_cases i <;> cases v <;> cases d <;> simp

theorem nop : Statement .nop := (by decide : packWord false false false 0 0 &&& 0x100000 = 0x000000)

theorem enc (m : Bool) (key : Key) (block : Block) : Statement (.enc m key block) :=
  (packWord_and_opcode true false m key block).trans (by decide : packWord true false false 0 0 = 0x100000)

theorem dec (m : Bool) (key : Key) (block : Block) : Statement (.dec m key block) :=
  (packWord_and_opcode true true m key block).trans (by decide : packWord true true false 0 0 = 0x180000)

end Sys2Proof.Laws.TableRow
end

