-- ==== Sys2Proof/Laws/State.lean ====
section
/-! SUPPORT. One lemma per field per named update of the state. -/

namespace Sys2Proof.Machine

section
variable (s : State) (b : Bool) (r : CipherResult) (h : List HostAction)

@[simp] theorem State.setValid_rspValid : (s.setValid b).rspValid = b := rfl
@[simp] theorem State.setValid_rspData : (s.setValid b).rspData = s.rspData := rfl
@[simp] theorem State.setValid_rspSwap : (s.setValid b).rspSwap = s.rspSwap := rfl
@[simp] theorem State.setValid_host : (s.setValid b).host = s.host := rfl
@[simp] theorem State.setValid_powerUps : (s.setValid b).powerUps = s.powerUps := rfl

@[simp] theorem State.respond_rspValid : (s.respond r).rspValid = true := rfl
@[simp] theorem State.respond_rspData : (s.respond r).rspData = r.out := rfl
@[simp] theorem State.respond_rspSwap : (s.respond r).rspSwap = r.swap := rfl
@[simp] theorem State.respond_host : (s.respond r).host = s.host := rfl
@[simp] theorem State.respond_powerUps : (s.respond r).powerUps = s.powerUps := rfl

@[simp] theorem State.resetRegs_rspValid : s.resetRegs.rspValid = false := rfl
@[simp] theorem State.resetRegs_rspData : s.resetRegs.rspData = 0x00#8 := rfl
@[simp] theorem State.resetRegs_rspSwap : s.resetRegs.rspSwap = 0x00#8 := rfl
@[simp] theorem State.resetRegs_host : s.resetRegs.host = s.host := rfl
@[simp] theorem State.resetRegs_powerUps : s.resetRegs.powerUps = s.powerUps := rfl

@[simp] theorem State.powerUp_host : s.powerUp.host = s.host := rfl
@[simp] theorem State.powerUp_powerUps : s.powerUp.powerUps = s.powerUps + 1 := rfl

@[simp] theorem State.setHost_rspValid : (s.setHost h).rspValid = s.rspValid := rfl
@[simp] theorem State.setHost_rspData : (s.setHost h).rspData = s.rspData := rfl
@[simp] theorem State.setHost_rspSwap : (s.setHost h).rspSwap = s.rspSwap := rfl
@[simp] theorem State.setHost_host : (s.setHost h).host = h := rfl
@[simp] theorem State.setHost_powerUps : (s.setHost h).powerUps = s.powerUps := rfl

end

end Sys2Proof.Machine
end

