-- ==== Sys2Proof/Laws/Step.lean ====
section
/-! SUPPORT. Everything a command, an edge, an action and a step can do, said once each; the provers cite these and
unfold nothing. -/

namespace Sys2Proof.Machine

variable {s t : State} {r : Refusal}

@[simp] theorem exec_nop (s : State) : exec .nop s = .next (s.setValid false) := rfl

@[simp] theorem exec_enc (m : Bool) (key : Key) (block : Block) (s : State) :
    exec (.enc m key block) s = .next (s.respond (cipher hardware .encrypt m block key)) := rfl

@[simp] theorem exec_dec (m : Bool) (key : Key) (block : Block) (s : State) :
    exec (.dec m key block) s = .next (s.respond (cipher hardware .decrypt m block key)) := rfl

/-- A command clears the flag and keeps the rest, or writes one result. -/
theorem exec_cases {i : Instr} (h : exec i s = .next t) :
    (i = .nop ∧ t = s.setValid false) ∨
    (∃ d m block key, t = s.respond (cipher hardware d m block key)) := by
  cases i with
  | nop => cases h; exact .inl ⟨rfl, rfl⟩
  | enc m key block => cases h; exact .inr ⟨_, _, _, _, rfl⟩
  | dec m key block => cases h; exact .inr ⟨_, _, _, _, rfl⟩

/-- Every command completes (R300). -/
theorem exec_completes (i : Instr) (s : State) : ∃ t, exec i s = .next t := by
  cases i <;> exact ⟨_, rfl⟩

theorem clockEdge_reset {x : Sample} (h : x.rst = true) (s : State) : clockEdge x s = .next s.resetRegs := by
  simp [clockEdge, h]

theorem clockEdge_command {x : Sample} (h : x.rst = false) (s : State) :
    clockEdge x s = exec (decode x.commandWord) s := by
  simp [clockEdge, h]

/-- An edge resets, clears the flag and keeps the rest, or writes one result. -/
theorem clockEdge_cases {x : Sample} (h : clockEdge x s = .next t) :
    (x.rst = true ∧ t = s.resetRegs) ∨
    (x.rst = false ∧ decode x.commandWord = .nop ∧ t = s.setValid false) ∨
    (x.rst = false ∧ ∃ d m block key, t = s.respond (cipher hardware d m block key)) := by
  cases hr : x.rst with
  | true => rw [clockEdge_reset hr] at h; cases h; exact .inl ⟨rfl, rfl⟩
  | false =>
    rw [clockEdge_command hr] at h
    rcases exec_cases h with ⟨hd, ht⟩ | hc
    · exact .inr (.inl ⟨rfl, hd, ht⟩)
    · exact .inr (.inr ⟨rfl, hc⟩)

/-- Every edge with a binary sample completes (R300, R411). -/
theorem clockEdge_completes (x : Sample) (s : State) : ∃ t, clockEdge x s = .next t := by
  cases hr : x.rst with
  | true => exact ⟨_, clockEdge_reset hr s⟩
  | false => rw [clockEdge_command hr]; exact exec_completes _ s

theorem step_of_host_nil (h : s.host = []) : step s = .refused .endOfRun := by
  simp [step, nextAction, h]

theorem step_of_host_cons {a : HostAction} {rest : List HostAction} (h : s.host = a :: rest) :
    step s = hostAct a (s.setHost rest) := by
  simp [step, nextAction, h]

/-- An action is an edge with some binary sample, or a loss of power. -/
theorem hostAct_cases {a : HostAction} (h : hostAct a s = .next t) :
    (∃ x, clockEdge x s = .next t) ∨ (a = .powerCycle ∧ t = s.powerUp) := by
  cases a with
  | drive x => exact .inl ⟨x, h⟩
  | feedBack x => exact .inl ⟨_, h⟩
  | wires x =>
    simp only [hostAct] at h
    split at h
    · exact .inl ⟨_, h⟩
    · cases h
  | timingViolation => cases h
  | powerCycle => cases h; exact .inr ⟨rfl, rfl⟩

/-- A step takes up the host's next action. -/
theorem step_cases (h : step s = .next t) :
    ∃ a rest, s.host = a :: rest ∧
      ((∃ x, clockEdge x (s.setHost rest) = .next t) ∨ (a = .powerCycle ∧ t = (s.setHost rest).powerUp)) := by
  cases hh : s.host with
  | nil => rw [step_of_host_nil hh] at h; cases h
  | cons a rest => rw [step_of_host_cons hh] at h; exact ⟨a, rest, rfl, hostAct_cases h⟩

end Sys2Proof.Machine
end

