-- ==== Sys2Proof/Laws/Tables.lean ====
section
/-! SUPPORT. What it means that a configuration passed the check, one lemma per check of `RawTables.wf`. -/

namespace Sys2Proof

theorem PermTable.undoes_iff {n : Nat} (A B : PermTable n) :
    PermTable.undoes A B = true ↔ ∀ p : Fin n, A[B[p] - 1]? = some (p.val + 1) := decide_eq_true_iff

theorem PermTable.inRange_iff {m : Nat} (n : Nat) (T : PermTable m) :
    PermTable.inRange n T = true ↔ ∀ i : Fin m, 1 ≤ T[i] ∧ T[i] ≤ n := decide_eq_true_iff

theorem PermTable.distinct_iff {m : Nat} (T : PermTable m) :
    T.distinct = true ↔ ∀ i j : Fin m, T[i] = T[j] → i = j := decide_eq_true_iff

theorem SBoxTable.differs_iff (A B : SBoxTable) :
    SBoxTable.differs A B = true ↔ ∃ r c : Fin 4, A[r][c] ≠ B[r][c] := decide_eq_true_iff

/-- All the checks at once (R101, R108, R173). -/
theorem RawTables.wf_iff (R : RawTables) :
    R.wf = true ↔
      R.p10.bijective = true ∧ (PermTable.inRange 10 R.p8 = true ∧ R.p8.distinct = true) ∧
      R.p4.bijective = true ∧ R.ip.bijective = true ∧ R.invip.bijective = true ∧
      PermTable.inRange 4 R.ep = true ∧
      (PermTable.undoes R.ip R.invip = true ∧ PermTable.undoes R.invip R.ip = true) ∧
      SBoxTable.differs R.s1Mod R.s1 = true := by
  simp [RawTables.wf, and_assoc]

theorem Tables.ip_undoes_invip (T : Tables) : PermTable.undoes T.ip T.invip = true :=
  ((RawTables.wf_iff _).1 T.wf).2.2.2.2.2.2.1.1

theorem Tables.invip_undoes_ip (T : Tables) : PermTable.undoes T.invip T.ip = true :=
  ((RawTables.wf_iff _).1 T.wf).2.2.2.2.2.2.1.2

theorem Tables.p4_bijective (T : Tables) : T.p4.bijective = true :=
  ((RawTables.wf_iff _).1 T.wf).2.2.1

theorem Tables.s1Mod_differs (T : Tables) : ∃ r c : Fin 4, T.s1Mod[r][c] ≠ T.s1[r][c] :=
  (SBoxTable.differs_iff _ _).1 ((RawTables.wf_iff _).1 T.wf).2.2.2.2.2.2.2

end Sys2Proof
end

