-- ==== Sys2Proof/Tests/Slice0.lean ====
section
/-! SUPPORT. Tests of the author's own: the configuration check against ill-formed tables, words and vectors taken from
the spec (spec/95_test_vectors.md unless another place is named), single steps, and a witness for the hypotheses of every
statement that has some. -/

namespace Sys2Proof.Tests

open Sys2Proof Sys2Proof.Machine

/-! ### The configuration check: a good configuration, and one ill-formed one for each check -/

/-- The tables of R102 to R107, R171 and R172, with S1 changed in one cell as the modified S1. -/
def sound : RawTables :=
  { rawHardware with s1Mod := modifiedTable tblS1 ⟨2, 3, 1, tblS1⟩ }

theorem test_sound_accepted : sound.wf = true := by decide
theorem test_p10_range : { sound with p10 := #v[3, 5, 2, 7, 4, 11, 1, 9, 8, 6] }.wf = false := by decide
theorem test_p10_repeats : { sound with p10 := #v[3, 5, 2, 7, 4, 10, 1, 9, 8, 8] }.wf = false := by decide
theorem test_p8_range : { sound with p8 := #v[6, 3, 7, 4, 8, 5, 0, 9] }.wf = false := by decide
theorem test_p8_repeats : { sound with p8 := #v[6, 3, 7, 4, 8, 5, 9, 9] }.wf = false := by decide
theorem test_p4_range : { sound with p4 := #v[2, 5, 3, 1] }.wf = false := by decide
theorem test_p4_repeats : { sound with p4 := #v[2, 4, 3, 2] }.wf = false := by decide
theorem test_ip_range : { sound with ip := #v[2, 6, 3, 1, 4, 9, 5, 7] }.wf = false := by decide
theorem test_ip_repeats : { sound with ip := #v[2, 6, 3, 1, 4, 8, 5, 5] }.wf = false := by decide
theorem test_invip_range : { sound with invip := #v[4, 1, 3, 5, 7, 2, 0, 6] }.wf = false := by decide
theorem test_invip_repeats : { sound with invip := #v[4, 1, 3, 5, 7, 2, 8, 8] }.wf = false := by decide
theorem test_ep_range : { sound with ep := #v[4, 1, 2, 3, 2, 3, 4, 5] }.wf = false := by decide
theorem test_invip_not_inverse : { sound with invip := #v[4, 1, 3, 5, 7, 2, 6, 8] }.wf = false := by decide
theorem test_s1Mod_same : { sound with s1Mod := tblS1 }.wf = false := by decide
theorem test_ofRaw_refuses : Tables.ofRaw? { sound with s1Mod := tblS1 } = none := by decide

/-! ### Words (R61, R67, sections 2.7 and 2.8) -/

theorem test_decode_enc : decode 0b1_0_0_1010000010_10111101 = .enc false 0b1010000010 0b10111101 := by decide
theorem test_decode_encM : decode 0b1_0_1_1010000010_10111101 = .enc true 0b1010000010 0b10111101 := by decide
theorem test_decode_dec : decode 0b1_1_0_1010000010_01110101 = .dec false 0b1010000010 0b01110101 := by decide
theorem test_decode_decM : decode 0b1_1_1_1010000010_10111101 = .dec true 0b1010000010 0b10111101 := by decide
theorem test_decode_nop : decode 0x000000 = .nop ∧ decode 0x0FFFFF = .nop := by decide
theorem test_encode : encode (.enc false 0x282 0xBD) = 0x1282BD ∧ encode (.dec false 0x282 0x75) = 0x1A8275 ∧
    encode (.enc true 0x282 0xBD) = 0x1682BD ∧ encode (.dec true 0x282 0xBD) = 0x1E82BD ∧ encode .nop = 0x000000 := by
  decide
theorem test_decodeTableWord : decodeTableWord 21 0x1282BD = some (.enc false 0x282 0xBD) ∧
    decodeTableWord 24 0x1A8275 = some (.dec false 0x282 0x75) ∧ decodeTableWord 24 0x200000 = none := by decide

/-! ### The parts of the cipher (sections 2.1 to 2.6) -/

theorem test_permute :
    permute (0b1111100000 : Key) tblP10 = (0b1110101000 : Key) ∧
    permute (0b0000111000 : Key) tblP8 = (0b10100100 : Block) ∧ permute (0b1100000000 : Key) tblP8 = (0b00000000 : Block) ∧
    permute (0b1110 : Half) tblP4 = (0b1011 : Half) ∧
    permute (0b11110000 : Block) tblIp = (0b10111000 : Block) ∧
    permute (0b11101100 : Block) tblInvip = (0b01110101 : Block) ∧
    permute (0b1110 : Half) tblEp = (0b01111101 : Block) ∧ permute (0b0001 : Half) tblEp = (0b10000010 : Block) := by
  decide

theorem test_rotl :
    rotl (0b10000 : KeyHalf) 1 = 0b00001 ∧ rotl (0b00001 : KeyHalf) 2 = 0b00100 ∧
    rotl (0b10110 : KeyHalf) 7 = 0b11010 := by decide

theorem test_schedule_key_31E :
    p10Key hardware 0x31E = 0b0011001111 ∧ ls1 hardware 0x31E = 0b0110011110 ∧ ls2 hardware 0x31E = 0b1000111011 ∧
    schedule hardware 0x31E = ⟨0b11101001, 0b10100111⟩ := by decide

theorem test_sbox :
    sbox hardware 0b11111111 false = 0b1011 ∧ sbox hardware 0b10010110 false = 0b1111 ∧
    sbox hardware 0b01010101 false = 0b0101 := by decide

theorem test_round :
    roundF hardware 0b1110 0b10100100 false = 0b1011 ∧ fk hardware 0b1111 0b0011 0b11001100 false = 0b0111 ∧
    fk hardware 0b1001 0b0101 0b10101010 false = 0b0001 := by decide

set_option maxRecDepth 4000 in
theorem test_cipher_encrypt :
    cipher hardware .encrypt false 0b11110000 0b1100011110 = ⟨0x11, 0x8C⟩ ∧
    cipher hardware .encrypt false 0b00000001 0b0000000001 = ⟨0x60, 0x40⟩ := by decide

set_option maxRecDepth 4000 in
theorem test_cipher_decrypt :
    cipher hardware .decrypt false 0b11110000 0b1100011110 = ⟨0b00100001, 0b10000100⟩ ∧
    cipher hardware .decrypt false 0b10010111 0b0111111101 = ⟨0b10011100, 0b11011010⟩ := by decide

/-! ### One edge (section 2.7) -/

/-- A state with these registers, whose host presents `x` next. -/
def facing (v : Bool) (d w : Block) (x : Sample) : State := ⟨v, d, w, [.drive x], 0⟩

/-- The three registers after a step. -/
def registers : Host.Outcome State Fault Refusal → Option (Bool × Block × Block)
  | .next s => some (s.rspValid, s.rspData, s.rspSwap)
  | .fault _ => none
  | .refused _ => none

/-- Why a step was refused. -/
def refusal : Host.Outcome State Fault Refusal → Option Refusal
  | .next _ => none
  | .fault _ => none
  | .refused r => some r

set_option maxRecDepth 4000 in
theorem test_step_enc :
    registers (step (facing false 0x00 0x00 (Sample.ofWord 0x1282BD))) = some (true, 0x75, 0xEC) := by decide

set_option maxRecDepth 4000 in
theorem test_step_dec :
    registers (step (facing false 0x75 0xEC (Sample.ofWord 0x1A8275))) = some (true, 0xBD, 0xCE) := by decide

theorem test_step_nop :
    registers (step (facing true 0x75 0xEC (Sample.ofWord 0x0FFFFF))) = some (false, 0x75, 0xEC) := by decide

theorem test_step_reset :
    registers (step (facing true 0xF0 0x08 { Sample.ofWord 0x13FFFF with rst := true })) = some (false, 0x00, 0x00) := by
  decide

set_option maxRecDepth 4000 in
theorem test_step_feedBack :
    registers (step ⟨true, 0x75, 0xEC, [.feedBack (Sample.ofWord 0x1A8200)], 0⟩) = some (true, 0xBD, 0xCE) := by decide

set_option maxRecDepth 4000 in
theorem test_step_fetchWord :
    registers (step (State.reset.withFetchWord 24 0x1282BD)) = some (true, 0x75, 0xEC) := by decide

/-- The sample of the known vector, with key index 9 left floating. -/
def floating : PortLevels :=
  { (Sample.ofWord 0x1282BD).levels with cmdKey := (Sample.ofWord 0x1282BD).levels.cmdKey.set 9 .highZ }

theorem test_step_floating : refusal (step ⟨true, 0x75, 0xEC, [.wires floating], 0⟩) = some .nonBinaryPort := by decide

/-- Lines of program P1, with the words it lists, and the pseudo-instruction the spec does not have. -/
theorem test_assemble :
    assemble? [.rst, .enc false 0xBD 0x282, .nop 2] =
      some [.drive { Sample.ofWord 0x000000 with rst := true }, .drive (Sample.ofWord 0x1282BD),
        .drive (Sample.ofWord 0x000000), .drive (Sample.ofWord 0x000000)] ∧
    assemble? [.rst, .nop 0] = none := by decide

/-! ### Witnesses: every statement with hypotheses has a state and operands that meet all of them -/

theorem witness_OperandsAssembledFromWord :
    decode 0x1282BD = .enc false 0x282 0xBD ∧ decode 0x1FFFFF = .dec true 0x3FF 0xFF := by decide

theorem witness_EncWritesResponse_equal_subkeys :
    (schedule hardware 0x060).k1 = (schedule hardware 0x060).k2 := by decide

theorem witness_CommandFrame : exec .nop State.reset = .next (State.reset.setValid false) ∧
    (∃ t, exec (.enc true 0x3FF 0xFF) State.reset = .next t) ∧ (∃ t, exec (.dec true 0x3FF 0xFF) State.reset = .next t) :=
  ⟨rfl, ⟨_, rfl⟩, ⟨_, rfl⟩⟩

theorem witness_ResponseIgnoresOldState :
    (Sample.ofWord 0x1282BD).rst = false ∧ (Sample.ofWord 0x1282BD).cmdValid = true := by decide

theorem witness_IdlePortsIgnored :
    (Sample.ofWord 0x000000).cmdValid = false ∧ (Sample.ofWord 0x0FFFFF).cmdValid = false ∧
    (Sample.ofWord 0x000000).rst = (Sample.ofWord 0x0FFFFF).rst := by decide

/-- Meets the hypotheses of StepRunsDecodedCommand (both clauses), StepIsCompleteStep and ValidMarksAcceptance; the four
words are the four branches of the step. -/
theorem witness_StepRunsDecodedCommand :
    (Sample.ofWord 0x1A8275).rst = false ∧
    (facing true 0x75 0xEC (Sample.ofWord 0x1A8275)).host = .drive (Sample.ofWord 0x1A8275) :: [] ∧
    (⟨true, 0x75, 0xEC, [.feedBack (Sample.ofWord 0x1A8275)], 0⟩ : State).host =
      .feedBack (Sample.ofWord 0x1A8275) :: [] := by decide

theorem witness_StepIsCompleteStep :
    ∀ x ∈ [Sample.resetSample, Sample.ofWord 0x000000, Sample.ofWord 0x1282BD, Sample.ofWord 0x1A8275],
      (facing true 0x75 0xEC x).host = .drive x :: [] := by decide

theorem witness_PresentedWordRuns : 21 ≤ 21 ∧ 0x1FFFFF < 2 ^ 21 ∧ 21 ≤ 24 ∧ 0 < 2 ^ 21 := by decide

theorem witness_ResetDiscardsCommand :
    let x := { Sample.ofWord 0x13FFFF with rst := true }
    x.rst = true ∧ (facing true 0xF0 0x08 x).host = .drive x :: [] := by decide

/-- Meets the hypotheses of RunFoldsCompleteStep and IdleHoldsResult, with an action left over. -/
theorem witness_IdleHoldsResult :
    let xs := [Sample.ofWord 0x000000, Sample.ofWord 0x0FFFFF]
    xs ≠ [] ∧ (∀ x ∈ xs, x.rst = false ∧ x.cmdValid = false) ∧
    (⟨true, 0x75, 0xEC, xs.map .drive ++ [.powerCycle], 0⟩ : State).host = xs.map .drive ++ [.powerCycle] := by decide

theorem witness_ResetHeldForEdges :
    let xs := [Sample.resetSample, { Sample.ofWord 0x1282BD with rst := true }]
    xs ≠ [] ∧ (∀ x ∈ xs, x.rst = true) ∧
    (⟨true, 0x75, 0xEC, xs.map .drive ++ [], 0⟩ : State).host = xs.map .drive ++ [] := by decide

theorem witness_RunEndsWithSamples : State.reset.host = [] := rfl

theorem witness_OnlyUnspecifiedStepsStop :
    refusal (step State.reset) = some .endOfRun ∧
    refusal (step ⟨false, 0, 0, [.wires floating], 0⟩) = some .nonBinaryPort ∧
    refusal (step ⟨false, 0, 0, [.timingViolation], 0⟩) = some .timingViolation := by decide

theorem witness_TimingViolationRefused :
    (⟨true, 0x75, 0xEC, [.timingViolation, .powerCycle], 0⟩ : State).host = .timingViolation :: [.powerCycle] := rfl

theorem witness_WiresCarrySampleOrRefused_sample :
    (⟨false, 0, 0, [.wires (Sample.ofWord 0x1282BD).levels], 0⟩ : State).host =
      .wires (Sample.ofWord 0x1282BD).levels :: [] := rfl

theorem witness_WiresCarrySampleOrRefused_refused : ∀ x : Sample, floating ≠ x.levels := by
  intro x h
  have h9 : floating.cmdKey[9] = x.levels.cmdKey[9] := by rw [h]
  have hl : x.levels.cmdKey[9] = Level.ofBit (x.cmdKey.getMsbD 9) := by simp [Sample.levels]
  have hf : floating.cmdKey[9] = .highZ := by decide
  rw [hl, hf] at h9
  cases hb : x.cmdKey.getMsbD 9 <;> rw [hb] at h9 <;> cases h9

theorem witness_PowerCycleThenEdge :
    let x := Sample.ofWord 0x1282BD
    (⟨true, 0x75, 0xEC, [.powerCycle, .drive x], 0⟩ : State).host = .powerCycle :: .drive x :: [] ∧
    (x.rst = true ∨ x.cmdValid = true) ∧ (facing false 0x00 0x00 x).host = .drive x :: [] := by decide

theorem witness_ResetValues : Sample.resetSample.rst = true := rfl

/-- Meets the hypotheses of StepKeepsCoherent. -/
theorem witness_StepKeepsCoherent :
    (State.reset.withFetchWord 24 0).Powered ∧ (State.reset.withFetchWord 24 0).Coherent ∧
    step (State.reset.withFetchWord 24 0) = .next State.reset :=
  ⟨by simp [State.Powered, State.withFetchWord, State.presentWord, State.reset], .inl ⟨rfl, rfl, rfl⟩, rfl⟩

/-- Meets the hypotheses of StepKeepsHalvesAgree, in a state that holds a result. -/
theorem witness_StepKeepsHalvesAgree :
    (facing true 0x75 0xEC (Sample.ofWord 0)).Powered ∧ (facing true 0x75 0xEC (Sample.ofWord 0)).HalvesAgree ∧
    step (facing true 0x75 0xEC (Sample.ofWord 0)) = .next ⟨false, 0x75, 0xEC, [], 0⟩ :=
  ⟨by simp [State.Powered, facing], by unfold State.HalvesAgree; decide, rfl⟩

theorem witness_PermuteSelectsBits : ∀ i : Fin 8, 1 ≤ tblEp[i] ∧ tblEp[i] ≤ 4 := by decide

theorem witness_PermuteLinear_same_images : ∀ j : Fin 4,
    permute (ofBits fun i : Fin 4 => decide (i = j)) (#v[0, 2] : PermTable 2) =
    permute (ofBits fun i : Fin 4 => decide (i = j)) (#v[1, 2] : PermTable 2) := by decide

theorem witness_MalformedTablesRefused : Tables.ofRaw? sound = some ⟨sound, test_sound_accepted⟩ := by decide

theorem witness_ModifiedTableOpenButDifferent : ∃ r c : Fin 4, sound.s1Mod[r][c] ≠ tblS1[r][c] := ⟨2, 3, by decide⟩

theorem witness_ScheduleClosedForm :
    (∀ i, i < 10 → i ≠ 1 → i ≠ 4 → (0x120 : Key).getMsbD i = (0x000 : Key).getMsbD i) ∧
    (∀ i, i < 10 → i ≠ 3 → i ≠ 6 → (0x048 : Key).getMsbD i = (0x000 : Key).getMsbD i) ∧ (0x120 : Key) ≠ 0x000 := by
  decide

theorem witness_LookupReadsAddressedCell :
    (3 : Fin 4).val = 2 * ((0b1101 : Half).getMsbD 0).toNat + ((0b1101 : Half).getMsbD 3).toNat ∧
    (2 : Fin 4).val = 2 * ((0b1101 : Half).getMsbD 1).toNat + ((0b1101 : Half).getMsbD 2).toNat := by decide

theorem witness_RoundSBoxAddresses :
    (0b1101 : Half) = slice (mixed hardware 0b1110 0b10100100) 0 4 ∧
    (0b1001 : Half) = slice (mixed hardware 0b1110 0b10100100) 4 4 := by decide

theorem witness_CipherClosedForm :
    ((0b10100100, 0b01000011) : SubKey × SubKey) = ((schedule hardware 0x282).k1, (schedule hardware 0x282).k2) := by
  decide

theorem witness_EqualSubkeysSameCipher : (schedule hardware 0x213).k1 ≠ (schedule hardware 0x213).k2 ∧
    (schedule hardware 0x217).k1 = (schedule hardware 0x217).k2 := by decide

set_option maxRecDepth 4000 in
theorem witness_PostSwapOfDecryption :
    (cipher hardware .encrypt false 0xBD 0x282).swap = (0b1110 : Half) ++ (0b1100 : Half) := by decide

theorem witness_VariantMatters : hardware.ep = tblEp := rfl

theorem witness_EncdecGivesBlockBack :
    let x := Sample.ofWord 0x1682BD
    let y := Sample.ofWord 0x1E8200
    (AsmLine.encdec true 0xBD 0x282).expand? = some [.drive x, .feedBack y] ∧
    (⟨false, 0, 0, [.drive x, .feedBack y] ++ [], 0⟩ : State).host = [.drive x, .feedBack y] ++ [] := by decide

end Sys2Proof.Tests
end

section
/-! The edge, sample by sample: with the reset edge of Laws/Step.lean, an idle edge and an accepted command are the three
branches of R411; and one step of a run. -/

namespace Sys2Proof.Machine

variable {x : Sample} {s t : State} {rest : List HostAction}

/-- A sample with `cmd_valid = 0` presents NOP, whatever the other ports carry (R32, R62). -/
theorem decode_commandWord_idle (hv : x.cmdValid = false) : decode x.commandWord = .nop := by
  simp [decode, Sample.commandWord, valid_packWord, hv]

/-- A sample with `cmd_valid = 1` presents ENC or DEC with the port values as operands (R62, R63). -/
theorem decode_commandWord_command (hv : x.cmdValid = true) :
    decode x.commandWord =
      if x.cmdOp then .dec x.cmdMods1 x.cmdKey x.cmdData else .enc x.cmdMods1 x.cmdKey x.cmdData := by
  cases ho : x.cmdOp <;>
    simp [decode, Sample.commandWord, valid_packWord, direction_packWord, modified_packWord, key_packWord,
      block_packWord, hv, ho]

/-- The second branch of R411. -/
theorem clockEdge_idle (hr : x.rst = false) (hv : x.cmdValid = false) (s : State) :
    clockEdge x s = .next (s.setValid false) := by
  rw [clockEdge_command hr, decode_commandWord_idle hv, exec_nop]

/-- The third branch of R411. -/
theorem clockEdge_accept (hr : x.rst = false) (hv : x.cmdValid = true) (s : State) :
    clockEdge x s = .next (s.respond
      (cipher hardware (if x.cmdOp then .decrypt else .encrypt) x.cmdMods1 x.cmdData x.cmdKey)) := by
  rw [clockEdge_command hr, decode_commandWord_command hv]
  cases x.cmdOp with
  | false => exact exec_enc ..
  | true => exact exec_dec ..

/-- A reset or an accepted command writes all three registers, with values that do not depend on the state (R31, R410). -/
theorem clockEdge_overwrites_registers (h : x.rst = true ∨ x.cmdValid = true) (s s' : State) :
    ∃ t t', clockEdge x s = .next t ∧ clockEdge x s' = .next t' ∧
      t.rspValid = t'.rspValid ∧ t.rspData = t'.rspData ∧ t.rspSwap = t'.rspSwap := by
  cases hr : x.rst with
  | true => exact ⟨_, _, clockEdge_reset hr s, clockEdge_reset hr s', by simp⟩
  | false =>
    have hv : x.cmdValid = true := by simpa [hr] using h
    exact ⟨_, _, clockEdge_accept hr hv s, clockEdge_accept hr hv s', by simp⟩

/-- `rsp_valid` is set by an accepted command and cleared by every other edge (R25). -/
theorem rspValid_of_clockEdge (h : clockEdge x s = .next t) : t.rspValid = (!x.rst && x.cmdValid) := by
  cases hr : x.rst with
  | true => rw [clockEdge_reset hr] at h; cases h; rfl
  | false =>
    cases hv : x.cmdValid with
    | false => rw [clockEdge_idle hr hv] at h; cases h; rfl
    | true => rw [clockEdge_accept hr hv] at h; cases h; rfl

theorem step_of_host_drive (h : s.host = .drive x :: rest) : step s = clockEdge x (s.setHost rest) :=
  step_of_host_cons h

theorem step_of_host_powerCycle (h : s.host = .powerCycle :: rest) : step s = .next (s.setHost rest).powerUp :=
  step_of_host_cons h

/-- A run begins with one step. -/
theorem run_succ_of_step {M : Host.Core} {s t : M.State} (h : M.step s = .next t) (k : Nat) :
    M.run (k + 1) s = M.run k t := by
  simp [Host.Core.run, h]

/-! What a command keeps and does not read. -/

theorem exec_frame {i : Instr} (h : exec i s = .next t) : t.host = s.host ∧ t.powerUps = s.powerUps := by
  rcases exec_cases h with ⟨-, rfl⟩ | ⟨d, m, block, key, rfl⟩
  · exact ⟨rfl, rfl⟩
  · exact ⟨rfl, rfl⟩

/-- No command reads `rsp_valid` (R25). -/
theorem exec_setValid (i : Instr) (b : Bool) (s : State) : exec i (s.setValid b) = exec i s := by
  cases i with
  | nop => rfl
  | enc m key block => rfl
  | dec m key block => rfl

/-- Zero registers agree on L1, since IP maps the zero block to itself (R110). -/
theorem State.AtReset.halvesAgree (h : s.AtReset) : s.HalvesAgree := by
  obtain ⟨-, hdata, hswap⟩ := h
  rw [State.HalvesAgree, hdata, hswap]
  decide

theorem State.reset_atReset : State.reset.AtReset := ⟨rfl, rfl, rfl⟩

/-! The obligations on the state. -/

/-- Settles O13: without a command an edge resets or does a NOP, and neither reads a port. -/
theorem idlePortsIgnored : Obligations.IdlePortsIgnored := by
  intro x y s hx hy hxy
  cases hr : x.rst with
  | true => rw [clockEdge_reset hr, clockEdge_reset (hxy ▸ hr)]
  | false => rw [clockEdge_idle hr hx, clockEdge_idle (hxy ▸ hr) hy]

/-- Settles O21: the step is the edge of its sample, and commands never look at the flag. -/
theorem validMarksAcceptance : Obligations.ValidMarksAcceptance := by
  refine ⟨fun s x rest hs => ?_, fun i s b => exec_setValid i b s⟩
  rw [step_of_host_drive hs]
  obtain ⟨t, ht⟩ := clockEdge_completes x (s.setHost rest)
  exact ⟨t, ht, rspValid_of_clockEdge ht⟩

/-- Settles O25: the second step of the run is the edge of `x` on the powered-up state, and such an edge overwrites all
three registers. -/
theorem powerCycleThenEdge : Obligations.PowerCycleThenEdge := by
  intro s x rest hs
  have hpower := step_of_host_powerCycle hs
  refine ⟨⟨_, hpower, rfl, rfl, rfl, rfl⟩, fun hx s' hs' => ?_⟩
  obtain ⟨t, t', ht, ht', hregs⟩ :=
    clockEdge_overwrites_registers hx ((s.setHost (.drive x :: rest)).powerUp.setHost rest) (s'.setHost rest)
  have hedge : step (s.setHost (.drive x :: rest)).powerUp = .next t := (step_of_host_drive rfl).trans ht
  have hrun : Host.Core.run core 2 s = .next t := (run_succ_of_step hpower 1).trans (run_succ_of_step hedge 0)
  exact ⟨t, t', hrun, (step_of_host_drive hs').trans ht', hregs⟩

/-- Settles O11: no command touches the model's own fields, and NOP is a write of the flag alone. -/
theorem commandFrame : Obligations.CommandFrame := by
  intro i s t h
  obtain ⟨hhost, hpower⟩ := exec_frame h
  refine ⟨hhost, hpower, ?_⟩
  rintro rfl
  rw [exec_nop] at h
  cases h
  exact ⟨rfl, rfl⟩

/-- Settles O26, by the reset branch of the edge (R400). -/
theorem resetValues : Obligations.ResetValues :=
  ⟨rfl, rfl, rfl, fun _ s hx => ⟨s.resetRegs, clockEdge_reset hx s, rfl, rfl, rfl⟩⟩

/-- Settles O27: the last two invariants follow from the zero registers alone, the first from the empty host list. -/
theorem invariantsHoldAtReset : Obligations.InvariantsHoldAtReset :=
  ⟨List.not_mem_nil, .inl State.reset_atReset, State.reset_atReset.halvesAgree⟩

end Sys2Proof.Machine
end

section
/-! What the registers hold: the invariant `Coherent` along a powered run, the response to a command, and the registers over
any number of idle edges. -/

namespace Sys2Proof.Machine

variable {x : Sample} {s t : State} {rest : List HostAction}

/-! The step while power stays on. -/

theorem clockEdge_host (h : clockEdge x s = .next t) : t.host = s.host := by
  rcases clockEdge_cases h with ⟨-, rfl⟩ | ⟨-, -, rfl⟩ | ⟨-, d, m, block, key, rfl⟩
  · exact s.resetRegs_host
  · exact s.setValid_host false
  · exact s.respond_host _

/-- While power stays on, a step is an edge with some sample and leaves the power on. -/
theorem State.Powered.step_cases (hp : s.Powered) (h : step s = .next t) :
    t.Powered ∧ ∃ x rest, clockEdge x (s.setHost rest) = .next t := by
  obtain ⟨a, rest, hs, ⟨x, hx⟩ | ⟨rfl, -⟩⟩ := Machine.step_cases h
  · have ht : t.host = rest := clockEdge_host hx
    exact ⟨fun hm => hp (hs ▸ List.mem_cons_of_mem a (ht ▸ hm)), x, rest, hx⟩
  · exact absurd (hs ▸ List.mem_cons_self) hp

/-! Coherence, update by update. -/

theorem State.setHost_coherent_iff : (s.setHost rest).Coherent ↔ s.Coherent := Iff.rfl

theorem State.resetRegs_coherent (s : State) : s.resetRegs.Coherent := .inl ⟨rfl, rfl, rfl⟩

/-- A command's write is one result in both registers (R45). -/
theorem State.respond_cipher_coherent (s : State) (d : Direction) (m : Bool) (block : Block) (key : Key) :
    (s.respond (cipher hardware d m block key)).Coherent :=
  .inr ⟨d, m, block, key, rfl⟩

/-- Clearing the flag keeps both alternatives: reset leaves it clear, and a result is in the other registers. -/
theorem State.Coherent.clear_valid (h : s.Coherent) : (s.setValid false).Coherent := by
  rcases h with ⟨-, hdata, hswap⟩ | hres
  · exact .inl ⟨rfl, hdata, hswap⟩
  · exact .inr hres

theorem State.Coherent.clockEdge (hc : s.Coherent) (h : clockEdge x s = .next t) : t.Coherent := by
  rcases clockEdge_cases h with ⟨-, rfl⟩ | ⟨-, -, rfl⟩ | ⟨-, d, m, block, key, rfl⟩
  · exact s.resetRegs_coherent
  · exact hc.clear_valid
  · exact s.respond_cipher_coherent d m block key

/-! Runs over samples, as the step of R411 folded over them. -/

/-- An edge is the step read off R411. -/
theorem clockEdge_eq_afterEdge (x : Sample) (s : State) : clockEdge x s = .next (s.afterEdge x) := by
  cases hr : x.rst with
  | true => rw [clockEdge_reset hr, State.afterEdge, if_pos hr]; rfl
  | false =>
    cases hv : x.cmdValid with
    | false => rw [clockEdge_idle hr hv]; simp [State.afterEdge, State.setValid, hr, hv]
    | true => rw [clockEdge_accept hr hv]; simp [State.afterEdge, State.respond, State.setValid, hr, hv]

/-- The step of R411 does not read the samples to come. -/
theorem State.afterEdge_setHost (s : State) (h : List HostAction) (x : Sample) :
    (s.setHost h).afterEdge x = (s.afterEdge x).setHost h := by
  unfold State.afterEdge
  split
  · rfl
  · split <;> rfl

/-- A run over samples on the host's list is the fold of R411 over them (R431). -/
theorem run_drive_eq_afterEdges (xs : List Sample) (h : s.host = xs.map .drive ++ rest) :
    Host.Core.run core xs.length s = .next ((s.setHost rest).afterEdges xs) := by
  induction xs generalizing s with
  | nil =>
    have hs : s.host = rest := h
    subst hs
    rfl
  | cons x xs ih =>
    let u := (s.setHost (xs.map .drive ++ rest)).afterEdge x
    have hedge : clockEdge x (s.setHost (xs.map .drive ++ rest)) = .next u := clockEdge_eq_afterEdge x _
    have hstep : step s = .next u := (step_of_host_drive h).trans hedge
    calc Host.Core.run core (xs.length + 1) s
        = Host.Core.run core xs.length u := run_succ_of_step hstep xs.length
      _ = .next ((u.setHost rest).afterEdges xs) := ih (clockEdge_host hedge)
      _ = .next ((s.setHost rest).afterEdges (x :: xs)) := by rw [← State.afterEdge_setHost]; rfl

theorem State.afterEdge_idle (hr : x.rst = false) (hv : x.cmdValid = false) (s : State) :
    s.afterEdge x = s.setValid false := by
  simp [State.afterEdge, State.setValid, hr, hv]

/-- Once the flag is clear, idle edges change nothing (R208, R424). -/
theorem State.afterEdges_idle_of_clear (xs : List Sample) (hx : ∀ x ∈ xs, x.rst = false ∧ x.cmdValid = false)
    (s : State) : (s.setValid false).afterEdges xs = s.setValid false := by
  induction xs with
  | nil => rfl
  | cons x xs ih =>
    obtain ⟨⟨hr, hv⟩, hxs⟩ := List.forall_mem_cons.mp hx
    calc ((s.setValid false).afterEdge x).afterEdges xs
        = (s.setValid false).afterEdges xs := by rw [State.afterEdge_idle hr hv]; rfl
      _ = s.setValid false := ih hxs

/-! The obligations on what the registers hold. -/

/-- Settles O28: a powered step is an edge, and each of the three things an edge can do to the registers keeps them
coherent. -/
theorem stepKeepsCoherent : Obligations.StepKeepsCoherent := by
  intro s t hp hc h
  obtain ⟨ht, x, rest, hx⟩ := hp.step_cases h
  exact ⟨ht, (State.setHost_coherent_iff.mpr hc).clockEdge hx⟩

/-- Settles O12: an accepted command overwrites all three registers with values that no state enters. -/
theorem responseIgnoresOldState : Obligations.ResponseIgnoresOldState :=
  fun _ s₁ s₂ _ hv => clockEdge_overwrites_registers (.inr hv) s₁ s₂

/-- Settles O20: the first idle edge clears the flag, and the others find it clear. -/
theorem idleHoldsResult : Obligations.IdleHoldsResult := by
  intro xs s rest hne hx hs
  rw [run_drive_eq_afterEdges xs hs]
  cases xs with
  | nil => exact absurd rfl hne
  | cons x xs =>
    obtain ⟨⟨hr, hv⟩, hxs⟩ := List.forall_mem_cons.mp hx
    rw [State.afterEdges, State.afterEdge_idle hr hv, State.afterEdges_idle_of_clear xs hxs]
    rfl

end Sys2Proof.Machine
end

section
/-! The command word: what the decoder answers, field by field and under the masks of R62; encoding; the sample of a packed
word; and the lines of a test program. -/

namespace Sys2Proof.Machine

variable {w : CommandWord} {m : Bool} {key : Key} {block : Block}

/-! The command a word selects, by its fields (R62). -/

theorem decode_eq_nop_iff : decode w = .nop ↔ CommandWord.valid w = false := by
  unfold decode
  split_ifs <;> simp_all

theorem decode_eq_enc_iff :
    decode w = .enc m key block ↔ CommandWord.valid w = true ∧ CommandWord.direction w = false ∧
      CommandWord.modified w = m ∧ CommandWord.key w = key ∧ CommandWord.block w = block := by
  unfold decode
  split_ifs <;> simp_all

theorem decode_eq_dec_iff :
    decode w = .dec m key block ↔ CommandWord.valid w = true ∧ CommandWord.direction w = true ∧
      CommandWord.modified w = m ∧ CommandWord.key w = key ∧ CommandWord.block w = block := by
  unfold decode
  split_ifs <;> simp_all

theorem exists_decode_eq_enc_iff :
    (∃ m key block, decode w = .enc m key block) ↔
      CommandWord.valid w = true ∧ CommandWord.direction w = false := by
  simp [decode_eq_enc_iff]

theorem exists_decode_eq_dec_iff :
    (∃ m key block, decode w = .dec m key block) ↔
      CommandWord.valid w = true ∧ CommandWord.direction w = true := by
  simp [decode_eq_dec_iff]

/-! The same by match and mask. -/

/-- Under the mask of V alone, a word is 0 exactly when V is. -/
theorem and_validMask_eq_zero_iff : w &&& 0x100000 = 0x000000 ↔ CommandWord.valid w = false := by
  have hmask : w &&& 0x100000 = if w.getLsbD 20 then BitVec.twoPow 21 20 else 0#21 := BitVec.and_twoPow w 20
  rw [hmask, CommandWord.valid]
  cases w.getLsbD 20 <;> decide

/-- Under the mask of V and D, those two fields are left of a word, and all the others are 0 (R61). -/
theorem and_opcodeMask (w : CommandWord) :
    w &&& 0x180000 = packWord (CommandWord.valid w) (CommandWord.direction w) false 0 0 := by
  conv_lhs => rw [← packWord_fields w]
  exact Laws.TableRow.packWord_and_opcode ..

theorem and_opcodeMask_eq_enc_iff :
    w &&& 0x180000 = 0x100000 ↔ CommandWord.valid w = true ∧ CommandWord.direction w = false := by
  rw [and_opcodeMask]
  cases CommandWord.valid w <;> cases CommandWord.direction w <;> decide

theorem and_opcodeMask_eq_dec_iff :
    w &&& 0x180000 = 0x180000 ↔ CommandWord.valid w = true ∧ CommandWord.direction w = true := by
  rw [and_opcodeMask]
  cases CommandWord.valid w <;> cases CommandWord.direction w <;> decide

/-! The operand bits (R63). -/

/-- A bit of a field of a word, counted from the field's most significant bit. -/
theorem getMsbD_extractLsb'_of_lt {n : Nat} (x : BitVec n) (lsb : Nat) {len i : Nat} (hi : i < len) :
    (x.extractLsb' lsb len).getMsbD i = x.getLsbD (lsb + len - 1 - i) := by
  have hlow : len - 1 - i < len := by omega
  have hpos : lsb + (len - 1 - i) = lsb + len - 1 - i := by omega
  simp [BitVec.getMsbD_eq_getLsbD, hi, hlow, hpos]

theorem getMsbD_key {i : Nat} (hi : i ≤ 9) : (CommandWord.key w).getMsbD i = w.getLsbD (17 - i) :=
  getMsbD_extractLsb'_of_lt w 8 (Nat.lt_succ_of_le hi)

theorem getMsbD_block {i : Nat} (hi : i ≤ 7) : (CommandWord.block w).getMsbD i = w.getLsbD (7 - i) :=
  getMsbD_extractLsb'_of_lt w 0 (Nat.lt_succ_of_le hi)

/-- The operands of an ENC or DEC are the fields of its word, and D tells the two apart. -/
theorem fields_of_decode_command (h : decode w = .enc m key block ∨ decode w = .dec m key block) :
    CommandWord.modified w = m ∧ CommandWord.key w = key ∧ CommandWord.block w = block ∧
      (decode w = .dec m key block ↔ CommandWord.direction w = true) := by
  rcases h with h | h
  · obtain ⟨-, hdir, hm, hkey, hblock⟩ := decode_eq_enc_iff.mp h
    exact ⟨hm, hkey, hblock, by simp [h, hdir]⟩
  · obtain ⟨-, hdir, hm, hkey, hblock⟩ := decode_eq_dec_iff.mp h
    exact ⟨hm, hkey, hblock, by simp [h, hdir]⟩

/-! The sample of a word, and the step that takes it. -/

/-- The ports of a packed word carry the fields it was packed from (R60, R61). -/
theorem ofWord_packWord (v d m : Bool) (key : Key) (block : Block) :
    Sample.ofWord (packWord v d m key block) = ⟨false, v, d, m, key, block⟩ := by
  simp [Sample.ofWord, valid_packWord, direction_packWord, modified_packWord, key_packWord, block_packWord]

theorem commandWord_ofWord (w : CommandWord) : (Sample.ofWord w).commandWord = w := packWord_fields w

/-- A word the host presents is the command the step runs, from the state it was presented in (R62, R411). -/
theorem step_presentWord (w : CommandWord) (s : State) : step (s.presentWord w) = exec (decode w) s := by
  have hstep : step (s.presentWord w) = clockEdge (Sample.ofWord w) s := step_of_host_drive rfl
  rw [hstep, clockEdge_command rfl, commandWord_ofWord]

/-! The obligations on the command word. -/

/-- Settles O4: the word of a command is that of a sample which carries its operands, and such a sample presents it. -/
theorem decodeOfEncode : Obligations.DecodeOfEncode := by
  intro i
  cases i with
  | nop => exact decode_commandWord_idle (x := ⟨false, false, false, false, 0, 0⟩) rfl
  | enc m key block => exact decode_commandWord_command (x := ⟨false, true, false, m, key, block⟩) rfl
  | dec m key block => exact decode_commandWord_command (x := ⟨false, true, true, m, key, block⟩) rfl

/-- Settles O2: each row's match under its mask says the same of V and D as the decoder's branch. -/
theorem decodeSelectsByTopBits : Obligations.DecodeSelectsByTopBits := fun _ =>
  ⟨rfl, and_validMask_eq_zero_iff.trans decode_eq_nop_iff.symm,
    and_opcodeMask_eq_enc_iff.trans exists_decode_eq_enc_iff.symm,
    and_opcodeMask_eq_dec_iff.trans exists_decode_eq_dec_iff.symm⟩

/-- Settles O3: the operands are fields of the word; and every operand stands in the word that encodes it. -/
theorem operandsAssembledFromWord : Obligations.OperandsAssembledFromWord := by
  refine ⟨fun w m key block h => ?_, fun m key block => ⟨⟨_, decodeOfEncode _⟩, ⟨_, decodeOfEncode _⟩⟩⟩
  obtain ⟨rfl, rfl, rfl, hdec⟩ := fields_of_decode_command h
  exact ⟨fun _ => getMsbD_key, fun _ => getMsbD_block, rfl, hdec⟩

/-- Settles O5: a NOP is encoded with its ignored bits 0, and every other command with all the fields of its word. -/
theorem encodeOfDecode : Obligations.EncodeOfDecode := by
  intro w
  have hpack := packWord_fields w
  change encode (decode w) = if CommandWord.valid w then w else 0
  cases hv : CommandWord.valid w with
  | false =>
    rw [decode_eq_nop_iff.mpr hv]
    rfl
  | true =>
    rw [if_pos rfl]
    cases hd : CommandWord.direction w with
    | false =>
      rw [hv, hd] at hpack
      rw [decode_eq_enc_iff.mpr ⟨hv, hd, rfl, rfl, rfl⟩]
      exact hpack
    | true =>
      rw [hv, hd] at hpack
      rw [decode_eq_dec_iff.mpr ⟨hv, hd, rfl, rfl, rfl⟩]
      exact hpack

/-- Settles O6, by the values of `cmd_valid` and `cmd_op`. -/
theorem samplePresentsCommand : Obligations.SamplePresentsCommand := by
  intro x
  cases hv : x.cmdValid with
  | false => exact decode_commandWord_idle hv
  | true =>
    rw [decode_commandWord_command hv]
    cases x.cmdOp with
    | false => rfl
    | true => rfl

/-- Settles O7: packing and taking apart undo each other, and `rst` is the one port outside the word. -/
theorem samplesAreWords : Obligations.SamplesAreWords := by
  refine ⟨commandWord_ofWord, fun x hr => ?_⟩
  rw [Sample.commandWord, ofWord_packWord, ← hr]

/-- Settles O15: a number below 2^21 is kept when it is cut to `nbits` bits. -/
theorem presentedWordRuns : Obligations.PresentedWordRuns := by
  intro s nbits w hbits hw
  have hlt : w < 2 ^ nbits := hw.trans_le (Nat.pow_le_pow_right (by decide) hbits)
  refine ⟨?_, if_pos ⟨hlt, hw⟩⟩
  rw [State.withFetchWord, Nat.mod_eq_of_lt hlt, step_presentWord]

/-- Settles O1: six fixed words, evaluated. -/
theorem decodeSpecWords : Obligations.DecodeSpecWords := by
  unfold Obligations.DecodeSpecWords
  decide

/-! The lines of a test program (R67, R68). -/

theorem expand?_encdec (m : Bool) (block : Block) (key : Key) :
    (AsmLine.encdec m block key).expand? =
      some [.drive ⟨false, true, false, m, key, block⟩, .feedBack ⟨false, true, true, m, key, 0⟩] := by
  simp only [AsmLine.expand?, encode, ofWord_packWord]

/-- Settles O53: the words of the lines are packed words, whose samples carry the fields. -/
theorem linesExpandToEdges : Obligations.LinesExpandToEdges := by
  refine ⟨fun m b k => ?_, fun m b k => ?_, fun n => ?_, by decide, expand?_encdec⟩
  · simp only [AsmLine.expand?, encode, ofWord_packWord]
  · simp only [AsmLine.expand?, encode, ofWord_packWord]
  · cases n with
    | zero => rfl
    | succ n => simp [AsmLine.expand?, encode, ofWord_packWord]

end Sys2Proof.Machine
end

section
/-! The two directions of the cipher undo each other, in every configuration (R152, R209, R210), and ENCDEC runs one after
the other. -/

namespace Sys2Proof.Machine

variable {T : Tables} {d : Direction} {m : Bool} {x : Block} {key : Key} {l r : Half} {s : State}

/-- A permutation followed by one that it undoes gives the vector back (R106, R109). -/
theorem permute_permute_of_undoes {n : Nat} {A B : PermTable n} (h : PermTable.undoes A B = true) (x : BitVec n) :
    permute (permute x A) B = x := by
  refine ext_getMsbD fun p => ?_
  obtain ⟨hlt, hentry⟩ := Vector.getElem?_eq_some_iff.mp ((PermTable.undoes_iff A B).mp h p)
  calc (permute (permute x A) B).getMsbD p
      = (permute x A).getMsbD (B[p] - 1) := getMsbD_permute ..
    _ = x.getMsbD (A[B[p] - 1] - 1) := getMsbD_permute x A ⟨B[p] - 1, hlt⟩
    _ = x.getMsbD p := by rw [hentry, Nat.add_sub_cancel]

/-- A second round with the same right half and subkey takes the first back (R152). -/
theorem fk_fk (T : Tables) (l r : Half) (sk : SubKey) (m : Bool) : fk T (fk T l r sk m) r sk m = l := by
  simp [fk]

theorem exists_eq_append_halves (x : Block) : ∃ l r : Half, x = l ++ r :=
  ⟨slice x 0 4, slice x 4 4, (append_slices (n := 4) (m := 4) x).symm⟩

theorem swapHalves_append (a b : Half) : swapHalves (a ++ b) = b ++ a := by
  rw [swapHalves, slice_append_left, slice_append_right]

/-- R200 on the halves that IP gives. -/
theorem cipher_of_halves (hx : permute x T.ip = l ++ r) {kA kB : SubKey}
    (hk : roundKeys d (schedule T key) = ⟨kA, kB⟩) :
    cipher T d m x key =
      ⟨permute (fk T r (fk T l r kA m) kB m ++ fk T l r kA m : Block) T.invip, r ++ fk T l r kA m⟩ := by
  simp only [cipher, hx, hk, slice_append_left, slice_append_right]

/-- A direction that takes the subkeys in the other order undoes this one and exchanges the halves of the post-swap
value (R209, R210). -/
theorem cipher_cipher_of_reversed_keys {d' : Direction} {kA kB : SubKey}
    (hk : roundKeys d (schedule T key) = ⟨kA, kB⟩) (hk' : roundKeys d' (schedule T key) = ⟨kB, kA⟩) :
    cipher T d' m (cipher T d m x key).out key = ⟨x, swapHalves (cipher T d m x key).swap⟩ := by
  obtain ⟨l, r, hx⟩ := exists_eq_append_halves (permute x T.ip)
  let l₁ := fk T l r kA m
  let l₂ := fk T r l₁ kB m
  have hfirst : cipher T d m x key = ⟨permute (l₂ ++ l₁ : Block) T.invip, r ++ l₁⟩ := cipher_of_halves hx hk
  have hip : permute (permute (l₂ ++ l₁ : Block) T.invip) T.ip = l₂ ++ l₁ :=
    permute_permute_of_undoes T.invip_undoes_ip _
  have hr : fk T l₂ l₁ kB m = r := fk_fk ..
  have hl : fk T l₁ r kA m = l := fk_fk ..
  rw [hfirst, cipher_of_halves hip hk', hr, hl, swapHalves_append, ← hx, permute_permute_of_undoes T.ip_undoes_invip]

theorem cipher_decrypt_encrypt (T : Tables) (m : Bool) (x : Block) (key : Key) :
    cipher T .decrypt m (cipher T .encrypt m x key).out key =
      ⟨x, swapHalves (cipher T .encrypt m x key).swap⟩ :=
  cipher_cipher_of_reversed_keys rfl rfl

/-- The edge of an ENC (R206). -/
theorem clockEdge_enc (m : Bool) (key : Key) (block : Block) (s : State) :
    clockEdge ⟨false, true, false, m, key, block⟩ s =
      .next (s.respond (cipher hardware .encrypt m block key)) :=
  clockEdge_accept (x := ⟨false, true, false, m, key, block⟩) rfl rfl s

/-- The edge of a DEC (R207). -/
theorem clockEdge_dec (m : Bool) (key : Key) (block : Block) (s : State) :
    clockEdge ⟨false, true, true, m, key, block⟩ s =
      .next (s.respond (cipher hardware .decrypt m block key)) :=
  clockEdge_accept (x := ⟨false, true, true, m, key, block⟩) rfl rfl s

theorem step_of_host_feedBack {y : Sample} {rest : List HostAction} (h : s.host = .feedBack y :: rest) :
    step s = clockEdge (y.withData s.rspData) (s.setHost rest) :=
  step_of_host_cons h

/-- Settles O54: the first edge shows the encryption, the second decrypts what it reads there. -/
theorem encdecGivesBlockBack : Obligations.EncdecGivesBlockBack := by
  intro s m block key rest as has hs
  rw [expand?_encdec, Option.some_inj] at has
  subst has
  let back : List HostAction := .feedBack ⟨false, true, true, m, key, 0⟩ :: rest
  let t := (s.setHost back).respond (cipher hardware .encrypt m block key)
  have hfirst : step s = .next t := (step_of_host_drive hs).trans (clockEdge_enc ..)
  have hhost : t.host = back := rfl
  have hsecond : step t = .next ((t.setHost rest).respond (cipher hardware .decrypt m t.rspData key)) :=
    (step_of_host_feedBack hhost).trans (clockEdge_dec m key t.rspData _)
  have hback : cipher hardware .decrypt m t.rspData key =
      ⟨block, swapHalves (cipher hardware .encrypt m block key).swap⟩ := cipher_decrypt_encrypt ..
  rw [hback] at hsecond
  exact (run_succ_of_step hfirst 1).trans (run_succ_of_step hsecond 0)

end Sys2Proof.Machine
end

section
/-! Permutations: their bits, linearity and one-hot images (R100, R110); the tables this hardware holds and the vectors they
give (R102 to R107, R109); and which configurations are refused (R101, R108, R173). -/

namespace Sys2Proof.Machine

variable {n m : Nat}

/-! The image of a vector, bit by bit (R100). -/

theorem permute_zero (T : PermTable m) : permute (BitVec.zero n) T = BitVec.zero m := by
  refine ext_getMsbD fun i => ?_
  rw [getMsbD_permute, BitVec.zero_eq, BitVec.zero_eq, BitVec.getMsbD_zero, BitVec.getMsbD_zero]

/-- Every bit of the image is a bit of the all-one vector because the entries are positions of it. -/
theorem permute_allOnes {T : PermTable m} (hT : ∀ i : Fin m, 1 ≤ T[i] ∧ T[i] ≤ n) :
    permute (BitVec.allOnes n) T = BitVec.allOnes m := by
  refine ext_getMsbD fun i => ?_
  have hpos : T[i] - 1 < n := by have := hT i; omega
  rw [getMsbD_permute, BitVec.getMsbD_allOnes, BitVec.getMsbD_allOnes, decide_eq_true hpos, decide_eq_true i.isLt]

/-- Settles O30: the bits of an image, read at an all-zero and an all-one vector; the example is evaluated. -/
theorem permuteSelectsBits : Obligations.PermuteSelectsBits :=
  ⟨fun _ _ => getMsbD_permute, fun _ _ T hT => ⟨permute_zero T, permute_allOnes hT⟩, by decide⟩

/-! Linearity and one-hot vectors (R110). -/

theorem permute_xor (x y : BitVec n) (T : PermTable m) :
    permute (x ^^^ y) T = permute x T ^^^ permute y T := by
  refine ext_getMsbD fun i => ?_
  simp only [getMsbD_permute, BitVec.getMsbD_xor]

/-- The one-hot vector of `j` has its one bit at `j`, whatever index it is read at. -/
theorem getMsbD_oneHot (j : Fin n) (p : Nat) :
    (ofBits fun i => decide (i = j)).getMsbD p = decide (p = j) := by
  by_cases hp : p < n
  · rw [getMsbD_ofBits_lt _ p hp]
    simp [Fin.ext_iff]
  · have hne : p ≠ j := by have := j.isLt; omega
    rw [BitVec.getMsbD_of_ge _ _ (Nat.le_of_not_lt hp), decide_eq_false hne]

/-- Two indices that no one-hot vector tells apart are the same index, or both lie outside the vector; so no vector tells
them apart. -/
theorem getMsbD_eq_of_oneHot {p q : Nat} (h : ∀ j : Fin n, p = j ↔ q = j) (x : BitVec n) :
    x.getMsbD p = x.getMsbD q := by
  by_cases hp : p < n
  · rw [(h ⟨p, hp⟩).mp rfl]
  · have hq : ¬ q < n := fun hq => hp ((h ⟨q, hq⟩).mpr rfl ▸ hq)
    rw [BitVec.getMsbD_of_ge _ _ (Nat.le_of_not_lt hp), BitVec.getMsbD_of_ge _ _ (Nat.le_of_not_lt hq)]

theorem permute_eq_of_oneHot {T T' : PermTable m}
    (h : ∀ j : Fin n, permute (ofBits fun i => decide (i = j)) T = permute (ofBits fun i => decide (i = j)) T')
    (x : BitVec n) : permute x T = permute x T' := by
  refine ext_getMsbD fun i => ?_
  rw [getMsbD_permute, getMsbD_permute]
  refine getMsbD_eq_of_oneHot (fun j => ?_) x
  have hbit := congrArg (fun v => v.getMsbD i) (h j)
  simpa only [getMsbD_permute, getMsbD_oneHot, decide_eq_decide] using hbit

/-- Settles O31: linearity bit by bit, and entry by entry the position that the one-hot images name. -/
theorem permuteLinear : Obligations.PermuteLinear :=
  ⟨fun _ _ => permute_xor, fun _ _ => permute_zero, fun _ _ _ _ => permute_eq_of_oneHot⟩

/-! This hardware's tables (R102 to R107, R171, R172). -/

/-- Settles O32: the entries of fixed tables, evaluated. -/
theorem hardwareTableEntries : Obligations.HardwareTableEntries := by
  unfold Obligations.HardwareTableEntries
  decide

/-- The image of a vector as the list of its bits is read off the list of the table's entries, counted from 0. -/
theorem map_range_getMsbD_permute (x : BitVec n) (T : PermTable m) :
    (List.range m).map (permute x T).getMsbD = (T.toList.map (· - 1)).map x.getMsbD := by
  refine List.ext_getElem (by simp) fun i hi _ => ?_
  have him : i < m := by simpa using hi
  simpa using getMsbD_permute x T ⟨i, him⟩

/-- Settles O33: the output vectors are the entries of the tables, each less 1. -/
theorem permutationOutputVectors : Obligations.PermutationOutputVectors := by
  obtain ⟨hp10, hp8, hp4, hip, hinvip, hep, -, -⟩ := hardwareTableEntries
  refine ⟨fun k => ?_, fun v => ?_, fun s => ?_, fun x => ?_, fun y => ?_, fun r => ?_⟩
  · rw [map_range_getMsbD_permute, hp10]; rfl
  · rw [map_range_getMsbD_permute, hp8]; rfl
  · rw [map_range_getMsbD_permute, hp4]; rfl
  · rw [map_range_getMsbD_permute, hip]; rfl
  · rw [map_range_getMsbD_permute, hinvip]; rfl
  · rw [map_range_getMsbD_permute, hep]; rfl

/-- Settles O34: the check of R108 is that each of the two tables undoes the other. -/
theorem ipAndInvipAreInverse : Obligations.IpAndInvipAreInverse := fun T x =>
  ⟨permute_permute_of_undoes T.ip_undoes_invip x, permute_permute_of_undoes T.invip_undoes_ip x⟩

end Sys2Proof.Machine

namespace Sys2Proof

variable {n m : Nat}

/-! The checks of a configuration as properties of the list of a table's entries (R101, R108). -/

theorem PermTable.toList_eq_ofFn (T : PermTable m) : T.toList = List.ofFn fun i : Fin m => T[i] :=
  List.ext_getElem (by simp) fun i _ _ => by simp

theorem PermTable.inRange_iff_mem (n : Nat) (T : PermTable m) :
    PermTable.inRange n T = true ↔ ∀ e ∈ T.toList, 1 ≤ e ∧ e ≤ n := by
  rw [PermTable.inRange_iff, PermTable.toList_eq_ofFn, List.forall_mem_ofFn_iff]

theorem PermTable.distinct_iff_nodup (T : PermTable m) : T.distinct = true ↔ T.toList.Nodup := by
  rw [PermTable.distinct_iff, PermTable.toList_eq_ofFn, List.nodup_ofFn]
  rfl

/-- As many distinct positions as there are: the table holds them all, in some order. -/
theorem PermTable.bijective_iff_perm (T : PermTable n) :
    T.bijective = true ↔ T.toList.Perm (List.range' 1 n) := by
  have hlen : T.toList.length = (List.range' 1 n).length := by simp
  rw [PermTable.bijective, Bool.and_eq_true, PermTable.inRange_iff_mem, PermTable.distinct_iff_nodup]
  constructor
  · rintro ⟨hrange, hnodup⟩
    have hsub : T.toList ⊆ List.range' 1 n := fun e he => by
      have := hrange e he
      rw [List.mem_range'_1]
      omega
    exact (hnodup.subperm hsub).perm_of_length_le hlen.ge
  · intro hperm
    refine ⟨fun e he => ?_, hperm.nodup_iff.mpr List.nodup_range'⟩
    have := List.mem_range'_1.mp (hperm.subset he)
    omega

/-- The one direction counts in the ordered list of positions; in the other, `n` positions fill the table's `n` places. -/
theorem PermTable.perm_iff_count (T : PermTable n) :
    T.toList.Perm (List.range' 1 n) ↔ ∀ v, 1 ≤ v → v ≤ n → T.toList.count v = 1 := by
  have hlen : T.toList.length = (List.range' 1 n).length := by simp
  constructor
  · intro hperm v h1 hn
    have hmem : v ∈ List.range' 1 n := by
      rw [List.mem_range'_1]
      omega
    rw [hperm.count_eq, List.count_eq_one_of_mem List.nodup_range' hmem]
  · intro h
    have hsub : List.range' 1 n ⊆ T.toList := fun v hv => by
      rw [List.mem_range'_1] at hv
      refine List.count_pos_iff.mp ?_
      rw [h v (by omega) (by omega)]
      exact Nat.one_pos
    have hnodup : (List.range' 1 n).Nodup := List.nodup_range'
    exact ((hnodup.subperm hsub).perm_of_length_le hlen.le).symm

theorem PermTable.bijective_iff_count (T : PermTable n) :
    T.bijective = true ↔ ∀ v, 1 ≤ v → v ≤ n → T.toList.count v = 1 :=
  T.bijective_iff_perm.trans T.perm_iff_count

/-- A configuration is accepted exactly when it passes the check, and it is then the one the hardware is built with. -/
theorem Tables.exists_ofRaw?_eq_some_iff (R : RawTables) :
    (∃ T, Tables.ofRaw? R = some T ∧ T.toRawTables = R) ↔ R.wf = true := by
  constructor
  · rintro ⟨T, -, rfl⟩
    exact T.wf
  · exact fun h => ⟨⟨R, h⟩, dif_pos h, rfl⟩

/-- Settles O35: check by check, each says of the table what R101, R108 and R173 ask. -/
theorem malformedTablesRefused : Obligations.MalformedTablesRefused := by
  intro R
  rw [Tables.exists_ofRaw?_eq_some_iff, RawTables.wf_iff]
  simp only [PermTable.bijective_iff_count, PermTable.inRange_iff_mem, PermTable.distinct_iff_nodup,
    PermTable.undoes_iff, SBoxTable.differs_iff, forall_and]

end Sys2Proof
end

section
/-! The key schedule: the circular shift bit by bit (R130, R131), LS-2 as a shift of the P10 output (R133), the schedule as
a selection of key bits (R134, R135), and the keys with equal subkeys (R136). -/

namespace Sys2Proof.Machine

variable {n m l : Nat} {T : Tables} {key : Key}

/-! The circular left shift. -/

/-- R130. -/
theorem getMsbD_rotl (x : BitVec l) (t : Nat) (i : Fin l) : (rotl x t).getMsbD i = x.getMsbD ((i + t) % l) :=
  getMsbD_ofBits _ i

theorem rotl_length (x : BitVec l) : rotl x l = x := by
  refine ext_getMsbD fun i => ?_
  rw [getMsbD_rotl, Nat.add_mod_right, Nat.mod_eq_of_lt i.isLt]

theorem rotl_mod (x : BitVec l) (t : Nat) : rotl x (t % l) = rotl x t := by
  refine ext_getMsbD fun i => ?_
  rw [getMsbD_rotl, getMsbD_rotl, Nat.add_mod_mod]

/-- Shifts compose by adding (R131). -/
theorem rotl_rotl (x : BitVec l) (a b : Nat) : rotl (rotl x a) b = rotl x (a + b) := by
  refine ext_getMsbD fun i => ?_
  have hlt : (i + b) % l < l := Nat.mod_lt _ i.pos
  calc (rotl (rotl x a) b).getMsbD i
      = (rotl x a).getMsbD ((i + b) % l) := getMsbD_rotl ..
    _ = x.getMsbD (((i + b) % l + a) % l) := getMsbD_rotl x a ⟨_, hlt⟩
    _ = x.getMsbD ((i + (a + b)) % l) := by rw [Nat.mod_add_mod, Nat.add_assoc, Nat.add_comm b]
    _ = (rotl x (a + b)).getMsbD i := (getMsbD_rotl ..).symm

/-- Settles O37: the identities hold of the index that each bit is read at; the examples are evaluated. -/
theorem rotlIdentities : Obligations.RotlIdentities :=
  ⟨fun _ => getMsbD_rotl, fun _ => rotl_length, fun _ x t => (rotl_mod x t).symm, fun _ => rotl_rotl, by decide⟩

/-! Shifting both halves. -/

theorem slice_rotlHalves_left (x : BitVec 10) (t : Nat) :
    (slice (rotlHalves x t) 0 5 : KeyHalf) = rotl (slice x 0 5 : KeyHalf) t :=
  slice_append_left _ _

theorem slice_rotlHalves_right (x : BitVec 10) (t : Nat) :
    (slice (rotlHalves x t) 5 5 : KeyHalf) = rotl (slice x 5 5 : KeyHalf) t :=
  slice_append_right _ _

/-- Each half is shifted on its own, so two shifts compose half by half (R131, R133). -/
theorem rotlHalves_rotlHalves (x : BitVec 10) (a b : Nat) :
    rotlHalves (rotlHalves x a) b = rotlHalves x (a + b) := by
  rw [rotlHalves, slice_rotlHalves_left, slice_rotlHalves_right, rotl_rotl, rotl_rotl, rotlHalves]

theorem ls2_eq_rotlHalves_p10Key (T : Tables) (key : Key) : ls2 T key = rotlHalves (p10Key T key) 3 :=
  rotlHalves_rotlHalves _ 1 2

/-- Settles O40: a fixed key, evaluated. -/
theorem knownKeySchedule : Obligations.KnownKeySchedule := by
  unfold Obligations.KnownKeySchedule
  decide

/-- Settles O38: the shifts by 1 and by 2 compose to one by 3; the known vector's key tells it from a shift by 2. -/
theorem ls2ShiftsLs1 : Obligations.Ls2ShiftsLs1 := by
  refine ⟨fun _ _ => rfl, ls2_eq_rotlHalves_p10Key, 0b1010000010, ?_⟩
  obtain ⟨hp10, -, hls2, -⟩ := knownKeySchedule
  rw [hp10, hls2]
  decide

/-! A vector as the list of its bits, and the schedule as lists of key indices (R134). -/

theorem map_range_getMsbD_inj {x y : BitVec n} :
    (List.range n).map x.getMsbD = (List.range n).map y.getMsbD ↔ x = y := by
  refine ⟨fun h => ext_getMsbD fun i => ?_, fun h => h ▸ rfl⟩
  exact List.map_inj_left.mp h i (List.mem_range.mpr i.isLt)

/-- Selecting bits of a vector that is itself a selection of bits of `x` selects bits of `x`. -/
theorem map_getMsbD_of_selection {v : BitVec n} {x : BitVec m} {sel : List Nat}
    (h : (List.range n).map v.getMsbD = sel.map x.getMsbD) (is : List Nat) (his : ∀ i ∈ is, i < n) :
    is.map v.getMsbD = (is.map fun i => sel.getD i 0).map x.getMsbD := by
  have hlen : n = sel.length := by simpa using congrArg List.length h
  rw [List.map_map]
  refine List.map_congr_left fun i hi => ?_
  have hin : i < n := his i hi
  have hsel : i < sel.length := hlen ▸ hin
  have hbit := congrArg (fun bits => bits[i]?) h
  simpa [hin, hsel] using hbit

/-- Bit `i` of a half, after both halves were shifted by `t`; `a` is where the half begins. -/
theorem getMsbD_rotlHalves {x : BitVec 10} {t a i : Nat} (hi : i < 5)
    (ha : (slice (rotlHalves x t) a 5 : KeyHalf) = rotl (slice x a 5 : KeyHalf) t) :
    (rotlHalves x t).getMsbD (a + i) = x.getMsbD (a + (i + t) % 5) := by
  calc (rotlHalves x t).getMsbD (a + i)
      = (slice (rotlHalves x t) a 5).getMsbD i := (getMsbD_slice _ a 5 ⟨i, hi⟩).symm
    _ = (slice x a 5).getMsbD ((i + t) % 5) := by rw [ha]; exact getMsbD_rotl _ t ⟨i, hi⟩
    _ = x.getMsbD (a + (i + t) % 5) := getMsbD_slice x a 5 ⟨_, Nat.mod_lt _ (by decide)⟩

/-- A vector with both halves shifted by `t` is a selection: the halves begin at 0 and at 5. -/
theorem map_range_getMsbD_rotlHalves (x : BitVec 10) (t : Nat) :
    (List.range 10).map (rotlHalves x t).getMsbD =
      ((List.range 5).map (fun i => 0 + (i + t) % 5) ++ (List.range 5).map fun i => 5 + (i + t) % 5).map x.getMsbD := by
  have hrange : List.range 10 = (List.range 5).map (0 + ·) ++ (List.range 5).map (5 + ·) := rfl
  rw [hrange, List.map_append, List.map_append, List.map_map, List.map_map, List.map_map, List.map_map]
  congr 1
  · exact List.map_congr_left fun i hi => getMsbD_rotlHalves (List.mem_range.mp hi) (slice_rotlHalves_left x t)
  · exact List.map_congr_left fun i hi => getMsbD_rotlHalves (List.mem_range.mp hi) (slice_rotlHalves_right x t)

theorem p10Key_bits (key : Key) :
    (List.range 10).map (p10Key hardware key).getMsbD = [2, 4, 1, 6, 3, 9, 0, 8, 7, 5].map key.getMsbD := by
  obtain ⟨hp10, -⟩ := permutationOutputVectors
  exact hp10 key

theorem ls1_bits (key : Key) :
    (List.range 10).map (ls1 hardware key).getMsbD = [4, 1, 6, 3, 2, 0, 8, 7, 5, 9].map key.getMsbD :=
  (map_range_getMsbD_rotlHalves _ 1).trans (map_getMsbD_of_selection (p10Key_bits key) _ (by decide))

theorem ls2_bits (key : Key) :
    (List.range 10).map (ls2 hardware key).getMsbD = [6, 3, 2, 4, 1, 7, 5, 9, 0, 8].map key.getMsbD :=
  (map_range_getMsbD_rotlHalves _ 2).trans (map_getMsbD_of_selection (ls1_bits key) _ (by decide))

theorem p8_bits (v : BitVec 10) :
    (List.range 8).map (permute v hardware.p8).getMsbD = [5, 2, 6, 3, 7, 4, 9, 8].map v.getMsbD := by
  obtain ⟨-, hp8, -⟩ := permutationOutputVectors
  exact hp8 v

theorem k1_bits (key : Key) :
    (List.range 8).map (schedule hardware key).k1.getMsbD = [0, 6, 8, 3, 7, 2, 9, 5].map key.getMsbD :=
  (p8_bits _).trans (map_getMsbD_of_selection (ls1_bits key) _ (by decide))

theorem k2_bits (key : Key) :
    (List.range 8).map (schedule hardware key).k2.getMsbD = [7, 2, 5, 4, 9, 1, 8, 0].map key.getMsbD :=
  (p8_bits _).trans (map_getMsbD_of_selection (ls2_bits key) _ (by decide))

/-- Two keys have the same K1 exactly when they agree on the eight bits it selects. -/
theorem k1_eq_iff {k k' : Key} :
    (schedule hardware k).k1 = (schedule hardware k').k1 ↔
      ∀ i ∈ [0, 6, 8, 3, 7, 2, 9, 5], k.getMsbD i = k'.getMsbD i := by
  rw [← map_range_getMsbD_inj, k1_bits, k1_bits, List.map_inj_left]

/-- Two keys have the same K2 exactly when they agree on the eight bits it selects. -/
theorem k2_eq_iff {k k' : Key} :
    (schedule hardware k).k2 = (schedule hardware k').k2 ↔
      ∀ i ∈ [7, 2, 5, 4, 9, 1, 8, 0], k.getMsbD i = k'.getMsbD i := by
  rw [← map_range_getMsbD_inj, k2_bits, k2_bits, List.map_inj_left]

/-- Every key bit is selected by K1 or by K2, so the two subkeys determine the key. -/
theorem schedule_injective {k k' : Key} (h : schedule hardware k = schedule hardware k') : k = k' := by
  have h1 := k1_eq_iff.mp (congrArg SubKeys.k1 h)
  have h2 := k2_eq_iff.mp (congrArg SubKeys.k2 h)
  have hcover : ∀ i : Fin 10, i.val ∈ [0, 6, 8, 3, 7, 2, 9, 5] ∨ i.val ∈ [7, 2, 5, 4, 9, 1, 8, 0] := by decide
  exact ext_getMsbD fun i => (hcover i).elim (h1 i) (h2 i)

/-- Settles O39: each stage selects from the one before it, and the index lists of K1 and K2 show which key bits reach
which subkey. -/
theorem scheduleClosedForm : Obligations.ScheduleClosedForm := by
  have hk1 : ∀ i ∈ [0, 6, 8, 3, 7, 2, 9, 5], i ≠ 1 ∧ i ≠ 4 := by decide
  have hk2 : ∀ i ∈ [7, 2, 5, 4, 9, 1, 8, 0], i ≠ 3 ∧ i ≠ 6 := by decide
  refine ⟨fun key => ⟨p10Key_bits key, ls1_bits key, ls2_bits key, k1_bits key, k2_bits key⟩,
    fun k k' h => k1_eq_iff.mpr fun i hi => ?_, fun k k' h => k2_eq_iff.mpr fun i hi => ?_,
    fun k k' => mt schedule_injective⟩
  · exact (hk1 i hi).elim (h i)
  · exact (hk2 i hi).elim (h i)

/-! Equal subkeys (R136, R211). -/

theorem roundKeys_decrypt_of_equal {k : SubKeys} (h : k.k1 = k.k2) : roundKeys .decrypt k = roundKeys .encrypt k := by
  obtain ⟨k1, k2⟩ := k
  cases h
  rfl

/-- The direction enters the cipher by the order of the subkeys alone (R200). -/
theorem cipher_encrypt_eq_decrypt (h : (schedule T key).k1 = (schedule T key).k2) (m : Bool) (x : Block) :
    cipher T .encrypt m x key = cipher T .decrypt m x key := by
  simp only [cipher, roundKeys_decrypt_of_equal h]

/-- The eight keys that R136 lists. -/
def equalSubkeyKeys : List Key :=
  [0b0000000000, 0b0001100000, 0b0110001000, 0b0111101000, 0b1000010111, 0b1001110111, 0b1110011111, 0b1111111111]

/-- Equal subkeys link the key bits that K1 and K2 select for the same index. -/
theorem equal_subkeys_iff (key : Key) :
    (schedule hardware key).k1 = (schedule hardware key).k2 ↔
      [0, 6, 8, 3, 7, 2, 9, 5].map key.getMsbD = [7, 2, 5, 4, 9, 1, 8, 0].map key.getMsbD := by
  rw [← map_range_getMsbD_inj, k1_bits, k2_bits]

theorem equal_subkeys_of_mem :
    ∀ key ∈ equalSubkeyKeys, (schedule hardware key).k1 = (schedule hardware key).k2 := by
  refine List.forall_iff_forall_mem.mp ?_
  simp only [equal_subkeys_iff]
  decide

/-- A key with the bits 0, 5, 7, 8, 9 equal to `a`, the bits 1, 2, 6 to `b` and the bits 3, 4 to `c`. -/
def linkedKey (a b c : Bool) : Key := ofBits fun i => [a, b, b, c, c, a, b, a, a, a][i]

theorem linkedKey_bits : ∀ a b c : Bool,
    (List.range 10).map (linkedKey a b c).getMsbD = [a, b, b, c, c, a, b, a, a, a] := by
  decide

theorem linkedKey_mem : ∀ a b c : Bool, linkedKey a b c ∈ equalSubkeyKeys := by
  decide

/-- The links of equal subkeys make the three classes of `linkedKey`. -/
theorem eq_linkedKey_of_equal_subkeys (h : (schedule hardware key).k1 = (schedule hardware key).k2) :
    key = linkedKey (key.getMsbD 0) (key.getMsbD 1) (key.getMsbD 3) := by
  simp only [equal_subkeys_iff, List.map_cons, List.cons.injEq] at h
  obtain ⟨h07, h62, h85, h34, -, h21, h98, h50, -⟩ := h
  rw [← map_range_getMsbD_inj, linkedKey_bits]
  simp [List.range_succ, ← h07, h62, h21, ← h34, h85, h98, h50]

/-- Settles O41: the listed keys are evaluated; equal subkeys leave three bits of the key free, and each choice of them
gives a listed key. -/
theorem equalSubkeysOfEightKeys : Obligations.EqualSubkeysOfEightKeys := by
  refine ⟨by decide, by decide, fun key => ⟨fun h => ?_, equal_subkeys_of_mem key⟩,
    fun key hkey => cipher_encrypt_eq_decrypt (equal_subkeys_of_mem key hkey)⟩
  rw [eq_linkedKey_of_equal_subkeys h]
  exact linkedKey_mem _ _ _

end Sys2Proof.Machine
end

section
/-! The round: the bits of the mixed half (R150), the S-box addresses it gives (R153, R174), and the XOR with F (R151,
R152). -/

namespace Sys2Proof.Machine

/-- R174 on a half that is a slice: the row address is its outer bits. -/
theorem sboxRow_slice_val {n : Nat} (x : BitVec n) (a : Nat) :
    (sboxRow (slice x a 4)).val = 2 * (x.getMsbD a).toNat + (x.getMsbD (a + 3)).toNat := by
  have hmsb : (slice x a 4).getMsbD 0 = x.getMsbD a := getMsbD_slice x a 4 0
  have hlsb : (slice x a 4).getMsbD 3 = x.getMsbD (a + 3) := getMsbD_slice x a 4 3
  rw [sboxRow, hmsb, hlsb, addressOf]

/-- R174 on a half that is a slice: the column address is its inner bits. -/
theorem sboxCol_slice_val {n : Nat} (x : BitVec n) (a : Nat) :
    (sboxCol (slice x a 4)).val = 2 * (x.getMsbD (a + 1)).toNat + (x.getMsbD (a + 2)).toNat := by
  have hmsb : (slice x a 4).getMsbD 1 = x.getMsbD (a + 1) := getMsbD_slice x a 4 1
  have hlsb : (slice x a 4).getMsbD 2 = x.getMsbD (a + 2) := getMsbD_slice x a 4 2
  rw [sboxCol, hmsb, hlsb, addressOf]

/-- R150 steps 1 and 2, bit by bit. -/
theorem getMsbD_mixed (T : Tables) (r : Half) (sk : SubKey) (i : Fin 8) :
    (mixed T r sk).getMsbD i = (r.getMsbD (T.ep[i] - 1) ^^ sk.getMsbD i) := by
  rw [mixed, BitVec.getMsbD_xor, getMsbD_permute]

/-- Settles O45: an address is two bits of the mixed half, and the entry of the EP table at each index names the bit of
`r` there. -/
theorem roundSBoxAddresses : Obligations.RoundSBoxAddresses := by
  intro r sk h
  have haddress (i j : Fin 8) :
      2 * ((mixed hardware r sk).getMsbD i).toNat + ((mixed hardware r sk).getMsbD j).toNat =
        2 * (r.getMsbD (tblEp[i] - 1) ^^ sk.getMsbD i).toNat + (r.getMsbD (tblEp[j] - 1) ^^ sk.getMsbD j).toNat := by
    rw [getMsbD_mixed, getMsbD_mixed]
    rfl
  refine ⟨?_, ?_⟩
  · rintro rfl
    rw [sboxRow_slice_val, sboxCol_slice_val]
    exact ⟨haddress 0 3, haddress 1 2⟩
  · rintro rfl
    rw [sboxRow_slice_val, sboxCol_slice_val]
    exact ⟨haddress 4 7, haddress 5 6⟩

/-- The left half enters the round only through the XOR (R151). -/
theorem fk_xor_left (T : Tables) (l r : Half) (sk : SubKey) (m : Bool) : fk T l r sk m ^^^ l = roundF T r sk m := by
  rw [fk, BitVec.xor_comm, ← BitVec.xor_assoc, BitVec.xor_self, BitVec.zero_xor]

/-- Settles O46: the involution is `fk_fk`, and the worked example is evaluated. -/
theorem roundUndoesItself : Obligations.RoundUndoesItself :=
  ⟨fun _ _ _ _ _ => rfl, fk_xor_left, fk_fk, by decide⟩

end Sys2Proof.Machine
end

section
/-! The S-boxes: the cell a half addresses and its two bits (R174, R177), the part of SBoxLookup that the variant selects
(R175), the modified tables that a choice can give (R173), and the block for which the variant changes the ciphertext
(R178). -/

namespace Sys2Proof.Machine

variable {n : Nat} {T : Tables} {h : Half}

/-! One lookup (R174). -/

theorem sboxRow_val (h : Half) : (sboxRow h).val = 2 * (h.getMsbD 0).toNat + (h.getMsbD 3).toNat := rfl

theorem sboxCol_val (h : Half) : (sboxCol h).val = 2 * (h.getMsbD 1).toNat + (h.getMsbD 2).toNat := rfl

/-- A cell as two bits, most significant first. -/
theorem getMsbD_ofNat_cell : ∀ v : Fin 4,
    ((BitVec.ofNat 2 v).getMsbD 0).toNat = v.val / 2 ∧ ((BitVec.ofNat 2 v).getMsbD 1).toNat = v.val % 2 := by
  decide

/-- A lookup shows the whole cell: two tables look the same from a half exactly when they agree in the cell it
addresses. -/
theorem lookup_eq_iff {A B : SBoxTable} :
    lookup h A = lookup h B ↔ A[sboxRow h][sboxCol h] = B[sboxRow h][sboxCol h] := by
  have hcell : ∀ v w : Fin 4, BitVec.ofNat 2 v = BitVec.ofNat 2 w ↔ v = w := by decide
  exact hcell _ _

/-- Every cell is addressed by some half. -/
theorem exists_half_at_cell : ∀ row col : Fin 4, ∃ h : Half, sboxRow h = row ∧ sboxCol h = col := by
  decide

/-- Settles O42: the address sums are those of the model, and a cell has four values. -/
theorem lookupReadsAddressedCell : Obligations.LookupReadsAddressedCell := by
  refine ⟨fun h S row col hrow hcol => ?_, by decide⟩
  have hrow' : row = sboxRow h := Fin.ext (hrow.trans (sboxRow_val h).symm)
  have hcol' : col = sboxCol h := Fin.ext (hcol.trans (sboxCol_val h).symm)
  rw [hrow', hcol']
  exact getMsbD_ofNat_cell _

/-- Settles O43: fixed tables, evaluated at all sixteen halves. -/
theorem flattenedSBoxes : Obligations.FlattenedSBoxes := by
  unfold Obligations.FlattenedSBoxes
  decide

/-! SBoxLookup and the variant (R175). -/

theorem slice_sbox_left (T : Tables) (x : BitVec 8) (m : Bool) :
    (slice (sbox T x m) 0 2 : BitVec 2) = lookup (slice x 0 4) T.s0 :=
  slice_append_left _ _

theorem slice_sbox_right (T : Tables) (x : BitVec 8) (m : Bool) :
    (slice (sbox T x m) 2 2 : BitVec 2) = lookup (slice x 4 4) (s1Table T m) :=
  slice_append_right _ _

/-- Settles O44: the first two bits are the lookup in S0, where the variant does not enter; the examples are
evaluated. -/
theorem variantSelectsOnlyS1 : Obligations.VariantSelectsOnlyS1 := by
  refine ⟨fun _ _ _ => rfl, fun T x m m' => ?_, by decide⟩
  rw [slice_sbox_left, slice_sbox_left]

/-- The variant shows in the S-box result when the S1 tables differ in the cell that the second half addresses. -/
theorem sbox_variants_ne {x : BitVec 8}
    (hcell : T.s1Mod[sboxRow (slice x 4 4)][sboxCol (slice x 4 4)] ≠
      T.s1[sboxRow (slice x 4 4)][sboxCol (slice x 4 4)]) :
    sbox T x true ≠ sbox T x false := by
  intro heq
  have hright := congrArg (fun y : Half => (slice y 2 2 : BitVec 2)) heq
  simp only [slice_sbox_right] at hright
  exact hcell (lookup_eq_iff.mp hright)

/-! The tables of the choices (R173). -/

theorem getElem_modifiedTable (s1 : SBoxTable) (c : S1ModChoice) (row col : Fin 4) :
    (modifiedTable s1 c)[row][col] =
      if row = c.row ∧ col = c.col then s1[row][col] + c.delta.succ else c.rest[row][col] := by
  simp [modifiedTable]

theorem sboxTable_ext {A B : SBoxTable} (hcells : ∀ row col : Fin 4, A[row][col] = B[row][col]) : A = B :=
  Vector.ext fun row hrow => Vector.ext fun col hcol => hcells ⟨row, hrow⟩ ⟨col, hcol⟩

/-- A table that differs is the one of the choice that names a cell in which it does, with the table itself as the
rest. -/
theorem exists_modifiedTable_eq {s1 M : SBoxTable} {row col : Fin 4} (hne : M[row][col] ≠ s1[row][col]) :
    ∃ choice, modifiedTable s1 choice = M := by
  have hdelta : ∀ v w : Fin 4, v ≠ w → ∃ d : Fin 3, w + d.succ = v := by decide
  obtain ⟨delta, hd⟩ := hdelta _ _ hne
  refine ⟨⟨row, col, delta, M⟩, sboxTable_ext fun row' col' => ?_⟩
  rw [getElem_modifiedTable]
  split
  next hcell =>
    obtain ⟨rfl, rfl⟩ := hcell
    exact hd
  next => rfl

/-- Settles O36: a choice gives a differing table by its named cell, and a differing table gives a choice by its own. -/
theorem modifiedTableOpenButDifferent : Obligations.ModifiedTableOpenButDifferent := by
  refine ⟨hardware.s1Mod_differs, rfl, fun M => ⟨?_, ?_⟩⟩
  · rintro ⟨row, col, hne⟩
    exact exists_modifiedTable_eq hne
  · rintro ⟨choice, rfl⟩
    exact (SBoxTable.differs_iff _ _).mp (modifiedTable_differs tblS1 choice)

/-! The variant in the cipher (R178): from a cell in which the S1 tables differ back to a block. -/

theorem slice_xor (x y : BitVec n) (a len : Nat) : slice (x ^^^ y) a len = slice x a len ^^^ slice y a len := by
  refine ext_getMsbD fun i => ?_
  simp only [getMsbD_slice, BitVec.getMsbD_xor]

/-- The second half of the expanded right half is the right half shifted by 1 (R107). -/
theorem slice_permute_ep_right : ∀ r : Half, (slice (permute r tblEp) 4 4 : Half) = rotl r 1 := by
  decide

/-- Under every subkey, some right half sends the S1 lookup to a given half (R153). -/
theorem exists_slice_mixed_right (hep : T.ep = tblEp) (sk : SubKey) (h : Half) :
    ∃ r : Half, slice (mixed T r sk) 4 4 = h := by
  refine ⟨rotl (h ^^^ slice sk 4 4) 3, ?_⟩
  rw [mixed, slice_xor, hep, slice_permute_ep_right, rotl_rotl, rotl_length, BitVec.xor_assoc, BitVec.xor_self,
    BitVec.xor_zero]

/-- A permutation that names every position loses no bit. -/
theorem permute_injective {P : PermTable n} (hP : P.bijective = true) :
    Function.Injective fun x : BitVec n => permute x P := by
  intro x y hxy
  refine ext_getMsbD fun p => ?_
  have hmem : p.val + 1 ∈ P.toList := by
    refine (P.bijective_iff_perm.mp hP).mem_iff.mpr ?_
    rw [List.mem_range'_1]
    omega
  rw [PermTable.toList_eq_ofFn, List.mem_ofFn] at hmem
  obtain ⟨i, hi⟩ := hmem
  have hbit := congrArg (fun v : BitVec n => v.getMsbD i) hxy
  simpa only [getMsbD_permute, hi, Nat.add_sub_cancel] using hbit

theorem permute_invip_injective (T : Tables) : Function.Injective fun x : Block => permute x T.invip :=
  Function.LeftInverse.injective (g := fun x : Block => permute x T.ip)
    (permute_permute_of_undoes T.invip_undoes_ip)

/-- A difference in the S-box result passes P4 and the XOR into the new left half (R150, R151). -/
theorem fk_variants_ne {r : Half} {sk : SubKey}
    (hne : sbox T (mixed T r sk) true ≠ sbox T (mixed T r sk) false) (l : Half) :
    fk T l r sk true ≠ fk T l r sk false :=
  fun heq => hne (permute_injective T.p4_bijective ((BitVec.xor_right_inj l).mp heq))

/-- The encryption of the block that IP takes to the halves `l` and `r` (R200, R201). -/
theorem encrypt_permute_invip (T : Tables) (l r : Half) (key : Key) (m : Bool) :
    encrypt T (permute (l ++ r : Block) T.invip) key m =
      permute (fk T r (fk T l r (schedule T key).k1 m) (schedule T key).k2 m ++
        fk T l r (schedule T key).k1 m : Block) T.invip :=
  congrArg CipherResult.out (cipher_of_halves (permute_permute_of_undoes T.invip_undoes_ip _) rfl)

/-- A difference in the first round's new left half is one in the ciphertext: the second round keeps that half, and INVIP
loses no bit. -/
theorem encrypt_variants_ne {l r : Half} {key : Key}
    (hne : fk T l r (schedule T key).k1 true ≠ fk T l r (schedule T key).k1 false) :
    encrypt T (permute (l ++ r : Block) T.invip) key true ≠ encrypt T (permute (l ++ r : Block) T.invip) key false := by
  rw [encrypt_permute_invip, encrypt_permute_invip]
  intro heq
  have hhalf := congrArg (fun y : Block => (slice y 4 4 : Half)) (permute_invip_injective T heq)
  simp only [slice_append_right] at hhalf
  exact hne hhalf

/-- Settles O51: a cell in which the S1 tables differ, the half that addresses it, a right half that the first round mixes
to it, and the block that IP takes to that right half. -/
theorem variantMatters : Obligations.VariantMatters := by
  intro T hep key
  obtain ⟨row, col, hcell⟩ := T.s1Mod_differs
  obtain ⟨h, rfl, rfl⟩ := exists_half_at_cell row col
  obtain ⟨r, rfl⟩ := exists_slice_mixed_right hep (schedule T key).k1 h
  exact ⟨permute ((0 : Half) ++ r : Block) T.invip, encrypt_variants_ne (fk_variants_ne (sbox_variants_ne hcell) 0)⟩

end Sys2Proof.Machine
end

section
/-! The cipher as a whole: its closed form (R202), the round trip (R209, R210), the known vector (R216), the half L1 that the
two result registers share (R24, R200), and what the three commands write (R206 to R208). -/

namespace Sys2Proof.Machine

variable {T : Tables} {d : Direction} {m : Bool} {x : Block} {key : Key} {s t : State}

/-! The closed form. -/

theorem fkBlock_append (T : Tables) (k : SubKey) (m : Bool) (a b : Half) :
    fkBlock T k m (a ++ b) = fk T a b k m ++ b := by
  rw [fkBlock, slice_append_left, slice_append_right]

theorem cipher_out_eq {kA kB : SubKey} (hk : roundKeys d (schedule T key) = ⟨kA, kB⟩) :
    (cipher T d m x key).out =
      permute (fkBlock T kB m (swapHalves (fkBlock T kA m (permute x T.ip)))) T.invip := by
  obtain ⟨l, r, hx⟩ := exists_eq_append_halves (permute x T.ip)
  rw [cipher_of_halves hx hk, hx, fkBlock_append, swapHalves_append, fkBlock_append]

/-- Settles O47: on a concatenation SW and FK act half by half, and each direction takes the subkeys in its order. -/
theorem cipherClosedForm : Obligations.CipherClosedForm := by
  refine ⟨swapHalves_append, fkBlock_append, fun T d m x key kA kB hk => cipher_out_eq ?_⟩
  cases d with
  | encrypt => cases hk; rfl
  | decrypt => cases hk; rfl

/-- Settles O48: the two directions differ in the order of the subkeys alone. -/
theorem equalSubkeysSameCipher : Obligations.EqualSubkeysSameCipher := fun _ _ => cipher_encrypt_eq_decrypt

/-! The round trip. -/

theorem cipher_encrypt_decrypt (T : Tables) (m : Bool) (x : Block) (key : Key) :
    cipher T .encrypt m (cipher T .decrypt m x key).out key =
      ⟨x, swapHalves (cipher T .decrypt m x key).swap⟩ :=
  cipher_cipher_of_reversed_keys rfl rfl

theorem decrypt_encrypt (T : Tables) (x : Block) (key : Key) (m : Bool) :
    decrypt T (encrypt T x key m) key m = x :=
  congrArg CipherResult.out (cipher_decrypt_encrypt T m x key)

theorem encrypt_decrypt (T : Tables) (x : Block) (key : Key) (m : Bool) :
    encrypt T (decrypt T x key m) key m = x :=
  congrArg CipherResult.out (cipher_encrypt_decrypt T m x key)

/-- Settles O49: each direction takes the other's subkeys in reverse, so it takes the other's rounds back. -/
theorem roundTrip : Obligations.RoundTrip := fun T x key m =>
  ⟨decrypt_encrypt T x key m, encrypt_decrypt T x key m⟩

/-- Settles O50: the second direction exchanges the halves of the first's post-swap value. -/
theorem postSwapOfDecryption : Obligations.PostSwapOfDecryption := by
  intro T m p key r₀ l₁ hswap
  rw [cipher_decrypt_encrypt, hswap, swapHalves_append]

/-! The known vector. -/

/-- Settles O52: the trace is evaluated step by step, and the result is R200 along the trace. -/
theorem knownVector : Obligations.KnownVector := by
  obtain ⟨-, -, -, hkeys⟩ := knownKeySchedule
  have hip : permute (0b10111101 : Block) hardware.ip = (0b0111 : Half) ++ (0b1110 : Half) := by decide
  have hl₁ : fk hardware 0b0111 0b1110 0b10100100 false = 0b1100 := by decide
  have hl₂ : fk hardware 0b1110 0b1100 0b01000011 false = 0b1110 := by decide
  have hinvip : permute (0b11101100 : Block) hardware.invip = (0b01110101 : Block) := by decide
  refine ⟨?_, hkeys, hip, hl₁, hl₂, hinvip⟩
  rw [cipher_of_halves hip (show roundKeys .encrypt _ = _ from hkeys), hl₁, hl₂]
  exact congrArg (CipherResult.mk · 0b11101100) hinvip

/-- Decrypting the known vector's ciphertext (R207): the plaintext, and the post-swap value with its halves exchanged. -/
theorem cipher_decrypt_known_ciphertext :
    cipher hardware .decrypt false 0x75 0x282 = ⟨0xBD, 0xCE⟩ := by
  obtain ⟨hvector, -⟩ := knownVector
  have hback := cipher_decrypt_encrypt hardware false 0xBD 0x282
  rw [hvector] at hback
  exact hback.trans (congrArg (CipherResult.mk 0xBD) (by decide : swapHalves 0xEC = 0xCE))

/-! The half L1 in the two result registers. -/

/-- IP takes INVIP off the output block, whose right half was L1, the right half of the post-swap value (R200). -/
theorem slice_permute_cipher_out (T : Tables) (d : Direction) (m : Bool) (x : Block) (key : Key) :
    (slice (permute (cipher T d m x key).out T.ip) 4 4 : Half) = slice (cipher T d m x key).swap 4 4 := by
  obtain ⟨l, r, hx⟩ := exists_eq_append_halves (permute x T.ip)
  rw [cipher_of_halves hx rfl, permute_permute_of_undoes T.invip_undoes_ip, slice_append_right, slice_append_right]

theorem State.respond_cipher_halvesAgree (s : State) (d : Direction) (m : Bool) (block : Block) (key : Key) :
    (s.respond (cipher hardware d m block key)).HalvesAgree :=
  slice_permute_cipher_out hardware d m block key

theorem State.resetRegs_halvesAgree (s : State) : s.resetRegs.HalvesAgree :=
  State.AtReset.halvesAgree ⟨rfl, rfl, rfl⟩

theorem State.setValid_halvesAgree_iff (b : Bool) : (s.setValid b).HalvesAgree ↔ s.HalvesAgree := Iff.rfl

theorem State.setHost_halvesAgree_iff (rest : List HostAction) : (s.setHost rest).HalvesAgree ↔ s.HalvesAgree :=
  Iff.rfl

theorem State.HalvesAgree.clockEdge {y : Sample} (ha : s.HalvesAgree) (h : clockEdge y s = .next t) :
    t.HalvesAgree := by
  rcases clockEdge_cases h with ⟨-, rfl⟩ | ⟨-, -, rfl⟩ | ⟨-, d, m, block, key, rfl⟩
  · exact s.resetRegs_halvesAgree
  · exact (State.setValid_halvesAgree_iff false).mpr ha
  · exact s.respond_cipher_halvesAgree d m block key

/-- Settles O29: a powered step is an edge, and an edge writes zeros, keeps both registers, or writes one result, whose two
blocks share L1. -/
theorem stepKeepsHalvesAgree : Obligations.StepKeepsHalvesAgree := by
  intro s t hp ha h
  obtain ⟨ht, y, rest, hy⟩ := hp.step_cases h
  exact ⟨ht, ((State.setHost_halvesAgree_iff rest).mpr ha).clockEdge hy⟩

/-! What the commands write. -/

/-- Settles O8: an accepted ENC writes one result; the example is the known vector. -/
theorem encWritesResponse : Obligations.EncWritesResponse := by
  refine ⟨exec_enc, clockEdge_enc, fun s => ?_, fun m key block s hkeys => ?_⟩
  · obtain ⟨hvector, -⟩ := knownVector
    have hports : Sample.ofWord 0x1282BD = ⟨false, true, false, false, 0x282, 0xBD⟩ := by decide
    rw [hports, clockEdge_enc, hvector]
    rfl
  · rw [exec_enc, exec_dec, cipher_encrypt_eq_decrypt hkeys]

/-- Settles O9: an accepted DEC writes one result; the example takes the known vector back, as the last clause does every
ciphertext. -/
theorem decWritesResponse : Obligations.DecWritesResponse := by
  refine ⟨exec_dec, clockEdge_dec, fun s => ?_, fun m key block s => ?_⟩
  · have hports : Sample.ofWord 0x1A8275 = ⟨false, true, true, false, 0x282, 0x75⟩ := by decide
    rw [hports, clockEdge_dec, cipher_decrypt_known_ciphertext]
    rfl
  · exact ⟨_, exec_dec .., decrypt_encrypt hardware block key m⟩

/-- Settles O10: NOP writes the flag alone, and an edge without a command does a NOP whatever the other ports carry. -/
theorem nopClearsValid : Obligations.NopClearsValid :=
  ⟨exec_nop, fun op m key block s => clockEdge_idle (x := ⟨false, false, op, m, key, block⟩) rfl rfl s,
    exec_nop State.reset, fun _ => exec_nop _⟩

end Sys2Proof.Machine
end

section
/-! The wires of an edge, and what is refused: the levels a sample drives are exactly those that stand for a sample (R301, R430,
D22), and of all host actions only non-binary wires and a timing violation have no step. -/

namespace Sys2Proof.Machine

variable {l : PortLevels} {x : Sample} {s : State} {r : Refusal}

/-! One port bit. -/

@[simp] theorem Level.isBinary_ofBit (b : Bool) : (Level.ofBit b).isBinary = true := by cases b <;> rfl

@[simp] theorem Level.bit_ofBit (b : Bool) : (Level.ofBit b).bit = b := by cases b <;> rfl

theorem Level.ofBit_bit {v : Level} (h : v.isBinary = true) : Level.ofBit v.bit = v := by
  cases v with
  | low => rfl
  | high => rfl
  | unknown => cases h
  | highZ => cases h

/-! One port, and then all of them: driving and reading back are inverse to each other. -/

@[simp] theorem ofBits_getMsbD {n : Nat} (v : BitVec n) : (ofBits fun i => v.getMsbD i) = v :=
  ext_getMsbD fun i => getMsbD_ofBits _ i

theorem ofFn_ofBit_ofBits_bit {n : Nat} {v : Vector Level n} (h : ∀ i : Fin n, v[i].isBinary = true) :
    (Vector.ofFn fun i => Level.ofBit ((ofBits fun j => v[j].bit).getMsbD i)) = v := Vector.ext fun i hi => by
  rw [Vector.getElem_ofFn, getMsbD_ofBits]
  exact Level.ofBit_bit (h ⟨i, hi⟩)

theorem Sample.levels_isBinary (x : Sample) : x.levels.isBinary = true := by
  simp [PortLevels.isBinary, Sample.levels]

theorem Sample.levels_bits (x : Sample) : x.levels.bits = x := by
  simp [PortLevels.bits, Sample.levels]

theorem PortLevels.bits_levels (h : l.isBinary = true) : l.bits.levels = l := by
  simp only [PortLevels.isBinary, Bool.and_eq_true, decide_eq_true_eq] at h
  obtain ⟨⟨⟨⟨⟨hrst, hvalid⟩, hop⟩, hmods1⟩, hkey⟩, hdata⟩ := h
  simp only [Sample.levels, PortLevels.bits, Level.ofBit_bit hrst, Level.ofBit_bit hvalid, Level.ofBit_bit hop,
    Level.ofBit_bit hmods1, ofFn_ofBit_ofBits_bit hkey, ofFn_ofBit_ofBits_bit hdata]

/-- The levels that stand for a sample are the levels this sample drives. -/
theorem PortLevels.sample?_eq_some_iff : l.sample? = some x ↔ l = x.levels := by
  constructor
  · intro h
    obtain ⟨hbin, hbits⟩ := Option.ite_none_right_eq_some.mp h
    rw [← Option.some_inj.mp hbits, bits_levels hbin]
  · rintro rfl
    simp [PortLevels.sample?, x.levels_isBinary, x.levels_bits]

theorem PortLevels.sample?_eq_none_iff : l.sample? = none ↔ ∀ x : Sample, l ≠ x.levels := by
  simp [Option.eq_none_iff_forall_ne_some, sample?_eq_some_iff]

/-! The edge on wires. -/

theorem hostAct_wires_of_some (h : l.sample? = some x) (s : State) : hostAct (.wires l) s = clockEdge x s := by
  simp [hostAct, h]

theorem hostAct_wires_of_none (h : l.sample? = none) (s : State) :
    hostAct (.wires l) s = .refused .nonBinaryPort := by
  simp [hostAct, h]

/-! What can stop a step. -/

/-- An action is refused for bad wires or bad timing only: every sample's edge completes. -/
theorem hostAct_refused_cases {a : HostAction} (h : hostAct a s = .refused r) :
    (r = .nonBinaryPort ∧ ∃ l, a = .wires l ∧ l.sample? = none) ∨ (r = .timingViolation ∧ a = .timingViolation) := by
  have edge_not_refused (y : Sample) : clockEdge y s ≠ .refused r := by
    obtain ⟨t, ht⟩ := clockEdge_completes y s
    simp [ht]
  cases a with
  | drive y => exact absurd h (edge_not_refused y)
  | feedBack y => exact absurd h (edge_not_refused _)
  | wires l =>
    cases hl : l.sample? with
    | some y => exact absurd (hostAct_wires_of_some hl s ▸ h) (edge_not_refused y)
    | none => rw [hostAct_wires_of_none hl] at h; cases h; exact .inl ⟨rfl, l, rfl, hl⟩
  | timingViolation => cases h; exact .inr ⟨rfl, rfl⟩
  | powerCycle => cases h

/-! The obligations on exceptions. -/

/-- Settles O24: driving a sample and reading it back are inverse, so the wires of a sample give its edge, and wires that no
sample drives give none. -/
theorem wiresCarrySampleOrRefused : Obligations.WiresCarrySampleOrRefused := by
  refine ⟨fun s x rest hs => ?_, fun s l rest hs hl => ?_⟩
  · have hx : x.levels.sample? = some x := PortLevels.sample?_eq_some_iff.mpr rfl
    have hdrive : step { s with host := .drive x :: rest } = clockEdge x (s.setHost rest) := step_of_host_drive rfl
    rw [step_of_host_cons hs, hostAct_wires_of_some hx, hdrive]
  · rw [step_of_host_cons hs, hostAct_wires_of_none (PortLevels.sample?_eq_none_iff.mpr hl)]

/-- Settles O23: commands complete, there is no fault to raise, and a step is refused when the host's list is at its end or
its next action is refused. -/
theorem onlyUnspecifiedStepsStop : Obligations.OnlyUnspecifiedStepsStop := by
  refine ⟨fun w s => exec_completes (decode w) s, fun _ f => (nomatch f), fun s r h => ?_⟩
  cases hs : s.host with
  | nil => rw [step_of_host_nil hs] at h; cases h; exact .inl ⟨rfl, rfl⟩
  | cons a rest =>
    rw [step_of_host_cons hs] at h
    rcases hostAct_refused_cases h with ⟨rfl, l, rfl, hl⟩ | ⟨rfl, rfl⟩
    · exact .inr (.inl ⟨rfl, l, rest, rfl, PortLevels.sample?_eq_none_iff.mp hl⟩)
    · exact .inr (.inr ⟨rfl, rest, rfl⟩)

end Sys2Proof.Machine
end

section
/-! Reset, and runs over samples: the step is the complete step of R411 with the sample taken off the host's list, and reset
edges leave the reset values however many there are (R400, R401, R431). -/

namespace Sys2Proof.Machine

variable {x : Sample}

/-- The first branch of R411. -/
theorem State.afterEdge_reset (hr : x.rst = true) (s : State) : s.afterEdge x = s.resetRegs := if_pos hr

theorem State.resetRegs_resetRegs (s : State) : s.resetRegs.resetRegs = s.resetRegs := rfl

/-- Reset edges keep the reset values (R401). -/
theorem State.afterEdges_reset_of_resetRegs (xs : List Sample) (hx : ∀ x ∈ xs, x.rst = true) (s : State) :
    s.resetRegs.afterEdges xs = s.resetRegs := by
  induction xs with
  | nil => rfl
  | cons x xs ih =>
    obtain ⟨hr, hxs⟩ := List.forall_mem_cons.mp hx
    rw [State.afterEdges, State.afterEdge_reset hr, State.resetRegs_resetRegs, ih hxs]

/-! The obligations on reset and on runs. -/

/-- Settles O17: the edge is the step read off R411, and that step does not write the host's list. -/
theorem stepIsCompleteStep : Obligations.StepIsCompleteStep := by
  intro s x rest hs
  have hedge : clockEdge x (s.setHost rest) = .next ((s.setHost rest).afterEdge x) := clockEdge_eq_afterEdge x _
  exact (step_of_host_drive hs).trans hedge

/-- Settles O18, by the run lemma for driven samples. -/
theorem runFoldsCompleteStep : Obligations.RunFoldsCompleteStep :=
  fun xs _ _ hs => run_drive_eq_afterEdges xs hs

/-- Settles O19: the first edge leaves the reset values, and the others keep them. -/
theorem resetHeldForEdges : Obligations.ResetHeldForEdges := by
  intro xs s rest hne hx hs
  rw [run_drive_eq_afterEdges xs hs]
  cases xs with
  | nil => exact absurd rfl hne
  | cons x xs =>
    obtain ⟨hr, hxs⟩ := List.forall_mem_cons.mp hx
    rw [State.afterEdges, State.afterEdge_reset hr, State.afterEdges_reset_of_resetRegs xs hxs]
    rfl

/-- Settles O14: both actions are an edge, with the sample as driven or with its block taken from `rsp_data`, and an edge
without reset runs the decoded command. -/
theorem stepRunsDecodedCommand : Obligations.StepRunsDecodedCommand := by
  intro s x rest hr
  have hr' : (x.withData s.rspData).rst = false := hr
  exact ⟨fun hs => (step_of_host_drive hs).trans (clockEdge_command hr _),
    fun hs => (step_of_host_feedBack hs).trans (clockEdge_command hr' _)⟩

/-- Settles O16, by the reset branch of the edge, which does not look at the command word. -/
theorem resetDiscardsCommand : Obligations.ResetDiscardsCommand :=
  fun s _ rest hr hs => (step_of_host_drive hs).trans (clockEdge_reset hr (s.setHost rest))

/-- Settles O22: with no further action of the host there is nothing to step on. -/
theorem runEndsWithSamples : Obligations.RunEndsWithSamples := fun _ hs => step_of_host_nil hs

end Sys2Proof.Machine
end

section
/-! Timing violations: the step takes up the host's action, and the engine refuses that action whatever its state (D22, U5). -/

namespace Sys2Proof.Machine

theorem hostAct_timingViolation (s : State) : hostAct .timingViolation s = .refused .timingViolation := rfl

/-- Settles O55: the step is what the engine does at the host's next action, and it refuses a timing violation. -/
theorem timingViolationRefused : Obligations.TimingViolationRefused :=
  fun s rest hs => (step_of_host_cons hs).trans (hostAct_timingViolation (s.setHost rest))

end Sys2Proof.Machine
end
